-- ==== Sys2Proof/Word.lean ====
section
/-! DEFINITION. The word types of the block: the 32-bit bus word, the 8-bit symbol byte, the 17-bit bus address, and the
ternary voltage symbol (00_scope.md R8, R9; 20_memory.md R50). -/

namespace Sys2Proof

/-- A 32-bit register, sample or bus word; bit 0 is the least significant (R8). -/
abbrev Word := BitVec 32

/-- The 8 bits of one SYM cell (R30). -/
abbrev Byte := BitVec 8

/-- A 17-bit byte address of the host bus (R50). -/
abbrev BusAddr := BitVec 17

/-- A ternary value: one of −1, 0, +1 (R9, R31). -/
inductive Trit
  | minus
  | zero
  | plus
deriving DecidableEq, Repr

/-- `−v`, again ternary; the source's "invert" (R9). -/
def Trit.inv : Trit → Trit
  | .minus => .plus
  | .zero => .zero
  | .plus => .minus

/-- The integer a ternary value is (R9). -/
def Trit.toInt : Trit → Int
  | .minus => -1
  | .zero => 0
  | .plus => 1

end Sys2Proof
end

