-- ==== Sys2Proof/Syntax.lean ====
section
/-! DEFINITION. The eleven commands of 30_encoding.md R82, one constructor for each row of spec/opcode_table.json. -/

namespace Sys2Proof

/-- A decoded command. Every operand but the PCM bit-depth is implicit (R81). -/
inductive Instr
  /-- QUANT.PCM B=`depth` (R100). -/
  | quantPcm (depth : Nat)
  /-- QUANT.DM (R105). -/
  | quantDm
  /-- ENC.NRZL (R121). -/
  | encNrzl
  /-- ENC.NRZI (R122). -/
  | encNrzi
  /-- ENC.MAN (R123). -/
  | encMan
  /-- ENC.DMAN (R124). -/
  | encDman
  /-- ENC.AMI (R125). -/
  | encAmi
  /-- SCR.B8ZS (R141). -/
  | scrB8zs
  /-- SCR.HDB3 (R142). -/
  | scrHdb3
  /-- ANA.PAL (R160). -/
  | anaPal
  /-- ANA.ZRUN (R161). -/
  | anaZrun
deriving DecidableEq, Repr

end Sys2Proof
end

