-- ==== Sys2Proof/Decode.lean ====
section
/-! DEFINITION. The command word: its fields (30_encoding.md R80), the decoder, total on every 32-bit word (R84), and the
encoder of a command (R82). -/

namespace Sys2Proof

/-- Why a word names no command. The block reports all three as UnsupportedTransition (R84). -/
inductive DecodeError
  /-- CMD[31:13] is not 0. -/
  | reservedBits
  /-- CMD[7:0] is none of the eleven OP values. -/
  | undefinedOp (op : Byte)
  /-- CMD[12:8] is not 0 and the OP is not QUANT.PCM's. -/
  | depthNotZero
deriving DecidableEq, Repr

/-- OP, bits [7:0] (R80). -/
def opField (w : Word) : Byte := w.extractLsb' 0 8

/-- DEPTH, bits [12:8], unsigned (R80, R81). -/
def depthField (w : Word) : BitVec 5 := w.extractLsb' 8 5

/-- RSV, bits [31:13] (R80). -/
def rsvField (w : Word) : BitVec 19 := w.extractLsb' 13 19

/-- A command that takes no operand: its DEPTH must be 0 (R84). -/
def decodePlain (w : Word) (i : Instr) : Except DecodeError Instr :=
  if depthField w ≠ 0#5 then .error .depthNotZero else .ok i

/-- The decoder of R84. -/
def decode (w : Word) : Except DecodeError Instr :=
  if rsvField w ≠ 0#19 then .error .reservedBits
  else
    match (opField w).toNat with
    | 0x10 => .ok (.quantPcm (depthField w).toNat)
    | 0x11 => decodePlain w .quantDm
    | 0x20 => decodePlain w .encNrzl
    | 0x21 => decodePlain w .encNrzi
    | 0x22 => decodePlain w .encMan
    | 0x23 => decodePlain w .encDman
    | 0x24 => decodePlain w .encAmi
    | 0x30 => decodePlain w .scrB8zs
    | 0x31 => decodePlain w .scrHdb3
    | 0x40 => decodePlain w .anaPal
    | 0x41 => decodePlain w .anaZrun
    | _ => .error (.undefinedOp (opField w))

/-- The OP value of a command (R82). -/
def opOf : Instr → Byte
  | .quantPcm _ => 0x10#8
  | .quantDm => 0x11#8
  | .encNrzl => 0x20#8
  | .encNrzi => 0x21#8
  | .encMan => 0x22#8
  | .encDman => 0x23#8
  | .encAmi => 0x24#8
  | .scrB8zs => 0x30#8
  | .scrHdb3 => 0x31#8
  | .anaPal => 0x40#8
  | .anaZrun => 0x41#8

/-- The DEPTH value of a command: B for QUANT.PCM, 0 for every other (R80). -/
def depthOf : Instr → BitVec 5
  | .quantPcm depth => BitVec.ofNat 5 depth
  | .quantDm => 0#5
  | .encNrzl => 0#5
  | .encNrzi => 0#5
  | .encMan => 0#5
  | .encDman => 0#5
  | .encAmi => 0#5
  | .scrB8zs => 0#5
  | .scrHdb3 => 0#5
  | .anaPal => 0#5
  | .anaZrun => 0#5

/-- The command word of a command (R80, R82): RSV, DEPTH, OP. -/
def encode (i : Instr) : Word := 0#19 ++ depthOf i ++ opOf i

/-- The instruction the decoder reads from the table word `w` of `nbits` bits, the bits above them 0. -/
def decodeTableWord (nbits w : Nat) : Option Instr :=
  if w % 2 ^ nbits < 2 ^ 32 then (decode (BitVec.ofNat 32 (w % 2 ^ nbits))).toOption else none

end Sys2Proof
end

