-- ==== Sys2Proof/Config.lean ====
section
/-! DEFINITION. What an instance of the block fixes (the implementation parameters of 00_scope.md R6) and the free values
the spec leaves open (93_implementation_defined.md U3). -/

namespace Sys2Proof

/-- The implementation parameters of R6 (U5: treatment `parameter`). `Params.wf` (WellFormed.lean) holds the constraints. -/
structure Params where
  /-- SYM_CAP, the cells of SYM. -/
  symCap : Nat
  /-- SAMP_CAP, the cells of SAMP. -/
  sampCap : Nat
  /-- PCM_MAX_DEPTH, the largest legal PCM bit-depth. -/
  pcmMaxDepth : Nat
  /-- SAMPLE_FRAC_BITS (F), the fraction bits of a sample word. -/
  sampleFracBits : Nat
deriving DecidableEq, Repr

/-- VOLT_CAP = 2 · SYM_CAP (R6). -/
def Params.voltCap (p : Params) : Nat := 2 * p.symCap

/-- The defaults of R6. DESIGN CHOICE (log 3): the instance `State.reset` stands for; safe, every statement is about any instance. -/
def Params.default : Params :=
  { symCap := 1024, sampCap := 1024, pcmMaxDepth := 16, sampleFracBits := 16 }

/-- FREE VALUE (U3, log 5): whether the `n`-th transaction issued during a reset is answered OKAY. -/
opaque Config.resetOkay : Nat → Bool

/-- FREE VALUE (U3, log 5): the data word of the `n`-th transaction issued during a reset. -/
opaque Config.resetData : Nat → Word

end Sys2Proof
end

