-- ==== Sys2Proof/Machine/State.lean ====
section
/-! DEFINITION. The state of the block (10_state.md R37) with the outside world it meets, as plain data; the reasons a
step can stop; the state after reset (R39, R210). -/

namespace Sys2Proof.Machine

/-- STATUS.ERR (R27, R180). -/
inductive ErrCode
  | ok
  | invalidInput
  | unsupportedTransition
  | capacityExceeded
deriving DecidableEq, Repr

/-- The codes a command can be ended with by `raise CmdError(code)` (R180, R182). -/
inductive CmdError
  | invalidInput
  | unsupportedTransition
  | capacityExceeded
deriving DecidableEq, Repr

/-- VKIND.KIND (R28). The reserved codes 8 to 14 are never produced and have no constructor (U8). -/
inductive VKind
  | none
  | nrzl
  | nrzi
  | man
  | dman
  | ami
  | amiB8zs
  | amiHdb3
  | host
deriving DecidableEq, Repr

/-- A buffer: (cell index, value) pairs, indices strictly rising. An index that is not listed is an UNWRITTEN cell: it has
no value (R39, R210). -/
abbrev Cells (α : Type) := List (Nat × α)

/-- The three buffers (R30, R31, R32). `sym` is a list of `Host.Cell`. -/
structure Memory where
  /-- SYM, cells of 8 bits. -/
  sym : Cells Byte
  /-- VOLT, ternary cells. -/
  volt : Cells Trit
  /-- SAMP, cells of 32 bits. -/
  samp : Cells Word
deriving DecidableEq, Repr

/-- The canonical form of one buffer of `cap` cells: indices strictly rising and below `cap`. -/
def cellsWf {α : Type} (cap : Nat) : Cells α → Bool
  | [] => true
  | [(a, _)] => decide (a < cap)
  | (a, _) :: (b, y) :: rest => decide (a < b) && cellsWf cap ((b, y) :: rest)

/-- The canonical form of the memory: equal contents are equal data. -/
def Memory.wf (p : Params) (m : Memory) : Bool :=
  cellsWf p.symCap m.sym && cellsWf p.voltCap m.volt && cellsWf p.sampCap m.samp

/-- One host-bus transaction (R50). -/
inductive Transaction
  /-- BusRead(addr). -/
  | read (addr : BusAddr)
  /-- BusWrite(addr, data). -/
  | write (addr : BusAddr) (data : Word)
deriving DecidableEq, Repr

/-- The response of a transaction (R50). -/
inductive Resp
  | okay
  | busErr
deriving DecidableEq, Repr

/-- What the host receives: the response, and the data of a read (0 for a write, log 8; 0 for a BUSERR, R50). -/
structure Reply where
  resp : Resp
  data : Word
deriving DecidableEq, Repr

/-- A transaction the host has performed, with its reply. -/
structure Observation where
  tx : Transaction
  reply : Reply
deriving DecidableEq, Repr

/-- What the outside world does next (log 4, log 5, log 6). -/
inductive EnvEvent
  /-- The host performs one transaction (R50). -/
  | bus (tx : Transaction)
  /-- The host reads STATUS, again and again, until BUSY = 0 (POLL of R89). -/
  | poll
  /-- The integrator asserts reset, and the host issues `during` while it is asserted (R210). -/
  | reset (during : List Transaction)
deriving DecidableEq, Repr

/-- The two agents (R20). -/
inductive Agent
  | host
  | engine
deriving DecidableEq, Repr

/-- Why the machine stops. Each is the model's treatment `fault` of U1 (D44, log 1), and SAFE: the hardware goes on with an
unspecified value. -/
inductive Fault
  /-- A host read of SYM[k], or a command that consumes the bit string, met an unwritten cell. Safe. -/
  | unwrittenSym (k : Nat)
  /-- A host read of VOLT[k], or a command that consumes the voltage sequence, met an unwritten cell. Safe. -/
  | unwrittenVolt (k : Nat)
  /-- A host read of SAMP[k], or a command that consumes the samples, met an unwritten cell. Safe. -/
  | unwrittenSamp (k : Nat)
deriving DecidableEq, Repr

/-- Why the model has no meaning for something. -/
inductive Refusal
  /-- An instruction whose meaning is not written, by its mnemonic: raised by an arm of `exec` alone. Safe. No arm raises it. -/
  | notModelled (mnemonic : String)
deriving DecidableEq, Repr

/-- How a command's checks and reads end it before its first write: with an error code (R182) or with a fault (U1). -/
inductive Abort
  | cmdError (e : CmdError)
  | fault (f : Fault)
deriving DecidableEq, Repr

/-- The state record of R37, the parameters of the instance, and the outside world. -/
structure State where
  /-- MODEL'S OWN (log 3): the parameters of R6, constant for an instance. -/
  params : Params
  /-- CMD (R26). -/
  cmd : Word
  /-- STATUS.BUSY (R27). -/
  busy : Bool
  /-- STATUS.ERR (R27). -/
  err : ErrCode
  /-- VKIND (R28). -/
  vkind : VKind
  /-- SAMP_LEN (R29). -/
  sampLen : Nat
  /-- SYM_LEN (R29). -/
  symLen : Nat
  /-- VOLT_LEN (R29). -/
  voltLen : Nat
  /-- PAL_START (R33). -/
  palStart : Nat
  /-- PAL_LEN (R33). -/
  palLen : Nat
  /-- ZR_START (R33). -/
  zrStart : Nat
  /-- ZR_LEN (R33). -/
  zrLen : Nat
  /-- SYM, VOLT and SAMP (R30, R31, R32). -/
  mem : Memory
  /-- MODEL'S OWN (log 6): what the outside world will still do, oldest first. -/
  env : List EnvEvent
  /-- MODEL'S OWN (log 4): who moves next while a command is pending and the host has something to do (U2). -/
  schedule : List Agent
  /-- MODEL'S OWN (log 7): the transactions performed, newest first. -/
  observed : List Observation
  /-- MODEL'S OWN (log 5): how many free replies have been drawn (U3). -/
  draws : Nat
deriving DecidableEq, Repr

/-- Right after reset, the instance with parameters `p` (R39, R210): every register at its value, every cell unwritten. -/
def State.resetOf (p : Params) : State :=
  { params := p
    cmd := 0#32
    busy := false
    err := .ok
    vkind := .none
    sampLen := 0
    symLen := 0
    voltLen := 0
    palStart := 0
    palLen := 0
    zrStart := 0
    zrLen := 0
    mem := { sym := [], volt := [], samp := [] }
    env := []
    schedule := []
    observed := []
    draws := 0 }

/-- Right after reset, the instance with the default parameters of R6 (log 3). -/
def State.reset : State := State.resetOf Params.default

end Sys2Proof.Machine
end

