-- ==== Sys2Proof/WellFormed.lean ====
section
/-! DEFINITION. Which commands can be spelled as a command word, and which parameters an instance may take. -/

namespace Sys2Proof

/-- A command's operand fits its field: the depth of QUANT.PCM is 0 to 31 (R81, R88). -/
def Instr.wf : Instr → Bool
  | .quantPcm depth => decide (depth < 32)
  | .quantDm => true
  | .encNrzl => true
  | .encNrzi => true
  | .encMan => true
  | .encDman => true
  | .encAmi => true
  | .scrB8zs => true
  | .scrHdb3 => true
  | .anaPal => true
  | .anaZrun => true

/-- The constraints of R6 on the parameters ("a model takes each as an argument and must check the constraints"). -/
def Params.wf (p : Params) : Bool :=
  decide (1 ≤ p.symCap) && decide (p.symCap ≤ 4096)
    && decide (1 ≤ p.sampCap) && decide (p.sampCap ≤ p.symCap)
    && decide (1 ≤ p.pcmMaxDepth) && decide (p.pcmMaxDepth ≤ 31)
    && decide (1 ≤ p.sampleFracBits) && decide (p.sampleFracBits ≤ 31)

end Sys2Proof
end

