-- ==== Sys2Proof/Machine/Ops.lean ====
section
/-! DEFINITION. The named operations every command and every bus transaction uses: one cell and runs of cells; how a command
completes and how it is ended by an error; acceptance; reset. -/

namespace Sys2Proof.Machine

/-- The value of cell `k`, none for an unwritten cell (R39). -/
def readCell {α : Type} : Cells α → Nat → Option α
  | [], _ => none
  | (a, x) :: rest, k => if a = k then some x else readCell rest k

/-- `BUF[k] <- x`: only cell `k` changes (R61, R63). -/
def writeCell {α : Type} : Cells α → Nat → α → Cells α
  | [], k, x => [(k, x)]
  | (a, y) :: rest, k, x =>
    if k < a then (k, x) :: (a, y) :: rest
    else if k = a then (k, x) :: rest
    else (a, y) :: writeCell rest k x

/-- `for t: BUF[k + t] <- xs[t]`, in increasing order (R11). -/
def writeCells {α : Type} : Cells α → Nat → List α → Cells α
  | m, _, [] => m
  | m, k, x :: xs => writeCells (writeCell m k x) (k + 1) xs

/-- The values of the `n` cells from `k` on, or the index of the first unwritten one. -/
def readCells {α : Type} (m : Cells α) : Nat → Nat → Except Nat (List α)
  | _, 0 => .ok []
  | k, n + 1 =>
    match readCell m k with
    | none => .error k
    | some x =>
      match readCells m (k + 1) n with
      | .error j => .error j
      | .ok xs => .ok (x :: xs)

/-- The value of STATUS.ERR that reports a command error (R180). -/
def CmdError.code : CmdError → ErrCode
  | .invalidInput => .invalidInput
  | .unsupportedTransition => .unsupportedTransition
  | .capacityExceeded => .capacityExceeded

/-- Successful completion: BUSY <- 0, ERR <- 0 (R27, R212). -/
def complete (s : State) : State := { s with busy := false, err := .ok }

/-- `raise CmdError(code)`, the ONE exception a command can take (R182): ERR <- code, BUSY <- 0 and nothing else. It saves
no state and transfers control nowhere (R193), and there is no return from it (R194). -/
def raiseCmdError (e : CmdError) (s : State) : State := { s with busy := false, err := e.code }

/-- The end of the engine's step: `r` is the state with the command's writes made, or how the command was ended before them
(R182, R184, R212; U1). -/
def conclude (s : State) (r : Except Abort State) : Host.Outcome State Fault Refusal :=
  match r with
  | .ok t => .next (complete t)
  | .error (.cmdError e) => .next (raiseCmdError e s)
  | .error (.fault f) => .fault f

/-- `SYM[0 ..] <- bytes ; SYM_LEN <- n`, the writes of a quantize command (R81). -/
def storeSymbols (bytes : List Byte) (n : Nat) (s : State) : State :=
  { s with mem := { s.mem with sym := writeCells s.mem.sym 0 bytes }, symLen := n }

/-- `VOLT[0 ..] <- out ; VOLT_LEN <- M ; VKIND <- kind`, the writes of an encode command (R120). -/
def storeVoltages (kind : VKind) (out : List Trit) (s : State) : State :=
  { s with mem := { s.mem with volt := writeCells s.mem.volt 0 out }, voltLen := out.length, vkind := kind }

/-- The writes of a scramble command: cells of VOLT and VKIND; VOLT_LEN is not written (R64, R140). -/
def storeScrambled (kind : VKind) (out : List Trit) (s : State) : State :=
  { s with mem := { s.mem with volt := writeCells s.mem.volt 0 out }, vkind := kind }

/-- `PAL_START <- r.1 ; PAL_LEN <- r.2` (R160). -/
def storePalindrome (r : Nat × Nat) (s : State) : State := { s with palStart := r.1, palLen := r.2 }

/-- `ZR_START <- r.1 ; ZR_LEN <- r.2` (R161). -/
def storeZeroRun (r : Nat × Nat) (s : State) : State := { s with zrStart := r.1, zrLen := r.2 }

/-- Acceptance of a command word: CMD <- data ; BUSY <- 1 ; ERR <- 0 (R211). -/
def accept (data : Word) (s : State) : State := { s with cmd := data, busy := true, err := .ok }

/-- The turn at the head of the schedule is used up (log 4). -/
def takeTurn (s : State) : State := { s with schedule := s.schedule.tail }

/-- The block's reset (R210): every register and cell as R39 says; the outside world goes on. -/
def resetBlock (s : State) : State :=
  { State.resetOf s.params with
    env := s.env, schedule := s.schedule, observed := s.observed, draws := s.draws }

/-- The instance with parameters `p` after reset, where `p` meets the constraints of R6. -/
def resetChecked (p : Params) : Option State := if p.wf then some (State.resetOf p) else none

end Sys2Proof.Machine
end

