-- ==== Sys2Proof/Machine/Flags.lean ====
section
/-! DEFINITION. The block's only flags, STATUS.BUSY and STATUS.ERR (10_state.md R36), and VKIND, as the words the host
reads. -/

namespace Sys2Proof.Machine

/-- ERR as STATUS[9:8] (R27, R180). -/
def ErrCode.bits : ErrCode → BitVec 2
  | .ok => 0#2
  | .invalidInput => 1#2
  | .unsupportedTransition => 2#2
  | .capacityExceeded => 3#2

/-- STATUS: BUSY in bit 0, ERR in bits [9:8], the rest 0 (R22, R27). -/
def statusWord (s : State) : Word := 0#22 ++ s.err.bits ++ 0#7 ++ BitVec.ofBool s.busy

/-- KIND as VKIND[3:0] (R28). -/
def VKind.bits : VKind → BitVec 4
  | .none => 0#4
  | .nrzl => 1#4
  | .nrzi => 2#4
  | .man => 3#4
  | .dman => 4#4
  | .ami => 5#4
  | .amiB8zs => 6#4
  | .amiHdb3 => 7#4
  | .host => 15#4

/-- VKIND: KIND in bits [3:0], the rest 0 (R22, R28). -/
def vkindWord (s : State) : Word := 0#28 ++ s.vkind.bits

end Sys2Proof.Machine
end

