-- ==== Sys2Proof/Machine/Operands.lean ====
section
/-! DEFINITION. Operand forms: symbols, ternary values and samples as the buffers and the bus hold them, and the reading of
a command's implicit operands (30_encoding.md R81). -/

namespace Sys2Proof.Machine

/-- `bit(c)`: 0x30 is the symbol 0, 0x31 the symbol 1; any other byte is a non-binary character (R10, R30). -/
def bitOf (c : Byte) : Option Bool :=
  if c = 0x30#8 then some false else if c = 0x31#8 then some true else none

/-- `sym(b)` (R10, R30). -/
def symOf (b : Bool) : Byte := if b then 0x31#8 else 0x30#8

/-- `sint(w)`: the sample in units of 2^(−F) (R8, R32). -/
def sint (w : Word) : Int := w.toInt

/-- `zext_32` of a SYM cell (R56). -/
def symWord (c : Byte) : Word := c.zeroExtend 32

/-- `sext_32` of a VOLT cell (R57). -/
def tritWord : Trit → Word
  | .minus => 0xFFFFFFFF#32
  | .zero => 0x00000000#32
  | .plus => 0x00000001#32

/-- The ternary value a host write of a VOLT cell stores, none where it is a BUSERR (R57). -/
def tritOfWord (w : Word) : Option Trit :=
  if w = 0x00000001#32 then some .plus
  else if w = 0x00000000#32 then some .zero
  else if w = 0xFFFFFFFF#32 then some .minus
  else none

/-- The bits of SYM[k .. k+n−1], validated in increasing order (R11, R120): the first cell that is not 0x30 or 0x31 ends the
command with InvalidInput, the first unwritten cell is a fault (U1; log 9). -/
def readBits (m : Cells Byte) : Nat → Nat → Except Abort (List Bool)
  | _, 0 => .ok []
  | k, n + 1 =>
    match readCell m k with
    | none => .error (.fault (.unwrittenSym k))
    | some c =>
      match bitOf c with
      | none => .error (.cmdError .invalidInput)
      | some b =>
        match readBits m (k + 1) n with
        | .error a => .error a
        | .ok bs => .ok (b :: bs)

/-- The bit string SYM[0 .. SYM_LEN−1]; an empty one is InvalidInput (R120, R163). -/
def bitStringOperand (s : State) : Except Abort (List Bool) :=
  if s.symLen = 0 then .error (.cmdError .invalidInput) else readBits s.mem.sym 0 s.symLen

/-- The voltage sequence VOLT[0 .. VOLT_LEN−1] (R81; log 10). -/
def voltageOperand (s : State) : Except Abort (List Trit) :=
  match readCells s.mem.volt 0 s.voltLen with
  | .error k => .error (.fault (.unwrittenVolt k))
  | .ok v => .ok v

/-- The sample sequence SAMP[0 .. SAMP_LEN−1], in units of 2^(−F) (R32, R81). -/
def sampleOperand (s : State) : Except Abort (List Int) :=
  match readCells s.mem.samp 0 s.sampLen with
  | .error k => .error (.fault (.unwrittenSamp k))
  | .ok ws => .ok (ws.map sint)

end Sys2Proof.Machine
end

