-- ==== Sys2Proof/Machine/Bus.lean ====
section
/-! DEFINITION. The host bus (20_memory.md): the address map, reads and writes of registers and cells, and bus errors
(60_exceptions.md R190). -/

namespace Sys2Proof.Machine

/-- The control registers of R22. -/
inductive Reg
  | id
  | version
  | caps0
  | caps1
  | cmd
  | status
  | vkind
  | sampLen
  | symLen
  | voltLen
  | palStart
  | palLen
  | zrStart
  | zrLen
deriving DecidableEq, Repr

/-- What a valid address reaches (R52). -/
inductive Target
  | reg (r : Reg)
  | sym (k : Nat)
  | volt (k : Nat)
  | samp (k : Nat)
deriving DecidableEq, Repr

/-- The register at a byte offset (R22); 0x01C, 0x02C and 0x040 to 0x3FFC are reserved. -/
def regAt (offset : Nat) : Option Reg :=
  match offset with
  | 0x000 => some .id
  | 0x004 => some .version
  | 0x008 => some .caps0
  | 0x00C => some .caps1
  | 0x010 => some .cmd
  | 0x014 => some .status
  | 0x018 => some .vkind
  | 0x020 => some .sampLen
  | 0x024 => some .symLen
  | 0x028 => some .voltLen
  | 0x030 => some .palStart
  | 0x034 => some .palLen
  | 0x038 => some .zrStart
  | 0x03C => some .zrLen
  | _ => none

/-- The address map of R52: none for a misaligned or reserved address and for a cell at or beyond the capacity (R51, R53). -/
def decodeAddr (p : Params) (a : BusAddr) : Option Target :=
  let n := a.toNat
  if n % 4 ≠ 0 then none
  else if n < 0x04000 then
    match regAt n with
    | some r => some (.reg r)
    | none => none
  else if n < 0x08000 then
    if (n - 0x04000) / 4 < p.symCap then some (.sym ((n - 0x04000) / 4)) else none
  else if n < 0x10000 then
    if (n - 0x08000) / 4 < p.voltCap then some (.volt ((n - 0x08000) / 4)) else none
  else if n < 0x14000 then
    if (n - 0x10000) / 4 < p.sampCap then some (.samp ((n - 0x10000) / 4)) else none
  else none

/-- CAPS0 = SAMP_CAP[15:0], SYM_CAP[15:0] (R25). -/
def caps0Word (p : Params) : Word := BitVec.ofNat 16 p.sampCap ++ BitVec.ofNat 16 p.symCap

/-- CAPS1: SAMPLE_FRAC_BITS in [12:8], PCM_MAX_DEPTH in [4:0], the rest 0 (R25). -/
def caps1Word (p : Params) : Word :=
  0#19 ++ BitVec.ofNat 5 p.sampleFracBits ++ 0#3 ++ BitVec.ofNat 5 p.pcmMaxDepth

/-- The value a host read of a register returns (R22, R24 to R29, R33, R60). -/
def readReg (r : Reg) (s : State) : Word :=
  match r with
  | .id => 0x44534743#32
  | .version => 0x00000001#32
  | .caps0 => caps0Word s.params
  | .caps1 => caps1Word s.params
  | .cmd => s.cmd
  | .status => statusWord s
  | .vkind => vkindWord s
  | .sampLen => BitVec.ofNat 32 s.sampLen
  | .symLen => BitVec.ofNat 32 s.symLen
  | .voltLen => BitVec.ofNat 32 s.voltLen
  | .palStart => BitVec.ofNat 32 s.palStart
  | .palLen => BitVec.ofNat 32 s.palLen
  | .zrStart => BitVec.ofNat 32 s.zrStart
  | .zrLen => BitVec.ofNat 32 s.zrLen

/-- The registers a host can read while BUSY = 1 (R38). -/
def readableWhileBusy : Reg → Bool
  | .id => true
  | .version => true
  | .caps0 => true
  | .caps1 => true
  | .status => true
  | .cmd => false
  | .vkind => false
  | .sampLen => false
  | .symLen => false
  | .voltLen => false
  | .palStart => false
  | .palLen => false
  | .zrStart => false
  | .zrLen => false

/-- `raise BusError` of a read: BUSERR, data 0 (R50, R190). -/
def busErrorReply : Reply := { resp := .busErr, data := 0#32 }

/-- An OKAY reply with its data. -/
def okayReply (data : Word) : Reply := { resp := .okay, data := data }

/-- The reply to a read that reaches `t` while BUSY = 0; an unwritten cell is a fault (R56, R57, R59, R60; U1). -/
def readTarget (t : Target) (s : State) : Except Fault Reply :=
  match t with
  | .reg r => .ok (okayReply (readReg r s))
  | .sym k =>
    match readCell s.mem.sym k with
    | some c => .ok (okayReply (symWord c))
    | none => .error (.unwrittenSym k)
  | .volt k =>
    match readCell s.mem.volt k with
    | some t => .ok (okayReply (tritWord t))
    | none => .error (.unwrittenVolt k)
  | .samp k =>
    match readCell s.mem.samp k with
    | some w => .ok (okayReply w)
    | none => .error (.unwrittenSamp k)

/-- The reply to a read that reaches `t` while BUSY = 1 (R38). -/
def readTargetBusy (t : Target) (s : State) : Reply :=
  match t with
  | .reg r => if readableWhileBusy r then okayReply (readReg r s) else busErrorReply
  | .sym _ => busErrorReply
  | .volt _ => busErrorReply
  | .samp _ => busErrorReply

/-- BusRead(addr): no state changes (R50, R61). -/
def busRead (a : BusAddr) (s : State) : Except Fault Reply :=
  match decodeAddr s.params a with
  | none => .ok busErrorReply
  | some t => if s.busy then .ok (readTargetBusy t s) else readTarget t s

/-- The state after a host write of a register while BUSY = 0, none where it is a BUSERR: RO registers, and lengths above
their capacity (R22, R29, R58, R60, R211). -/
def writeReg (r : Reg) (data : Word) (s : State) : Option State :=
  match r with
  | .cmd => some (accept data s)
  | .sampLen => if data.toNat ≤ s.params.sampCap then some { s with sampLen := data.toNat } else none
  | .symLen => if data.toNat ≤ s.params.symCap then some { s with symLen := data.toNat } else none
  | .voltLen =>
    if data.toNat ≤ s.params.voltCap then some { s with voltLen := data.toNat, vkind := .host } else none
  | .id => none
  | .version => none
  | .caps0 => none
  | .caps1 => none
  | .status => none
  | .vkind => none
  | .palStart => none
  | .palLen => none
  | .zrStart => none
  | .zrLen => none

/-- `SYM[k] <- data[7:0]` (R56). -/
def writeSym (k : Nat) (data : Word) (s : State) : State :=
  { s with mem := { s.mem with sym := writeCell s.mem.sym k (data.extractLsb' 0 8) } }

/-- `VOLT[k] <- t ; VKIND <- HOST` (R57, R58). -/
def writeVolt (k : Nat) (t : Trit) (s : State) : State :=
  { s with mem := { s.mem with volt := writeCell s.mem.volt k t }, vkind := .host }

/-- `SAMP[k] <- data` (R59). -/
def writeSamp (k : Nat) (data : Word) (s : State) : State :=
  { s with mem := { s.mem with samp := writeCell s.mem.samp k data } }

/-- The state after a write that reaches `t` while BUSY = 0, none where it is a BUSERR (R56, R57, R59, R60). -/
def writeTarget (t : Target) (data : Word) (s : State) : Option State :=
  match t with
  | .reg r => writeReg r data s
  | .sym k => some (writeSym k data s)
  | .volt k =>
    match tritOfWord data with
    | some t => some (writeVolt k t s)
    | none => none
  | .samp k => some (writeSamp k data s)

/-- BusWrite(addr, data): the response and the state after it; a BUSERR changes nothing (R50, R190). -/
def busWrite (a : BusAddr) (data : Word) (s : State) : Resp × State :=
  match decodeAddr s.params a with
  | none => (.busErr, s)
  | some t =>
    if s.busy then (.busErr, s)
    else
      match writeTarget t data s with
      | some s' => (.okay, s')
      | none => (.busErr, s)

/-- One host transaction: its reply and the state after it. The record of a write's reply has data 0 (log 8). -/
def transact (tx : Transaction) (s : State) : Except Fault (Reply × State) :=
  match tx with
  | .read a =>
    match busRead a s with
    | .ok reply => .ok (reply, s)
    | .error f => .error f
  | .write a data =>
    .ok ({ resp := (busWrite a data s).1, data := 0#32 }, (busWrite a data s).2)

/-- Where an integrator's system bus finds a block address (R54, U12). -/
def systemAddress (base : Nat) (a : BusAddr) : Nat := base + a.toNat

/-- The bytes of a word where an integrator maps it into a byte-addressed memory, lowest address first (R55). -/
def wordBytes (w : Word) : List Byte :=
  [w.extractLsb' 0 8, w.extractLsb' 8 8, w.extractLsb' 16 8, w.extractLsb' 24 8]

end Sys2Proof.Machine
end

