-- ==== Sys2Proof/Machine/Analyzer.lean ====
section
/-! DEFINITION. The Signal Analyzer: ANA.PAL and ANA.ZRUN (43_analyzer.md), and the source's own palindrome method written
out (R162). -/

namespace Sys2Proof.Machine

/-- isPal(i, L): SYM[i+t] = SYM[i+L−1−t] for every t below L (R160). -/
def isPal (bits : List Bool) (i len : Nat) : Bool :=
  (List.range len).all fun t => decide (bits[i + t]? = bits[i + len - 1 - t]?)

/-- The least start of a palindrome of length `len`, if there is one. -/
def leftmostPal (bits : List Bool) (len : Nat) : Option Nat :=
  (List.range (bits.length + 1 - len)).find? fun i => isPal bits i len

/-- (start, length) of the longest palindrome of length at most `len`, leftmost among equals (R160). -/
def longestPalUpTo (bits : List Bool) : (len : Nat) → Nat × Nat
  | 0 => (0, 0)
  | len + 1 =>
    match leftmostPal bits (len + 1) with
    | some i => (i, len + 1)
    | none => longestPalUpTo bits len

/-- (ibest, Lbest) of R160. -/
def longestPal (bits : List Bool) : Nat × Nat := longestPalUpTo bits bits.length

/-- ANA.PAL up to its completion (R160, R163). -/
def anaPalEffect (s : State) : Except Abort State :=
  match bitStringOperand s with
  | .error a => .error a
  | .ok bits => .ok (storePalindrome (longestPal bits) s)

/-- ANA.PAL (R160). -/
def execAnaPal (s : State) : Host.Outcome State Fault Refusal :=
  conclude s (anaPalEffect s)

/-- The working state of ANA.ZRUN: the best run so far and the current one (R34, R161). -/
structure ZeroScan where
  best : Nat
  bestStart : Nat
  cur : Nat
  curStart : Nat
deriving DecidableEq, Repr

/-- "compare against the best-so-far", strictly (R161, R164). -/
def compareRun (z : ZeroScan) : ZeroScan :=
  if z.cur > z.best then { z with best := z.cur, bestStart := z.curStart } else z

/-- The single pass of R161 from index `k`. -/
def zeroScan : (k : Nat) → List Trit → ZeroScan → ZeroScan
  | _, [], z => z
  | k, .zero :: v, z =>
    zeroScan (k + 1) v { z with cur := z.cur + 1, curStart := if z.cur = 0 then k else z.curStart }
  | k, .plus :: v, z => zeroScan (k + 1) v { compareRun z with cur := 0 }
  | k, .minus :: v, z => zeroScan (k + 1) v { compareRun z with cur := 0 }

/-- (start, length) of the longest zero run, leftmost among equals; (0, 0) where there is none (R161). -/
def longestZeroRun (v : List Trit) : Nat × Nat :=
  let z := compareRun (zeroScan 0 v { best := 0, bestStart := 0, cur := 0, curStart := 0 })
  if z.best > 0 then (z.bestStart, z.best) else (0, 0)

/-- ANA.ZRUN up to its completion: any VKIND, and an empty sequence, are accepted (R161, R164). -/
def anaZrunEffect (s : State) : Except Abort State :=
  match voltageOperand s with
  | .error a => .error a
  | .ok v => .ok (storeZeroRun (longestZeroRun v) s)

/-- ANA.ZRUN (R161). -/
def execAnaZrun (s : State) : Host.Outcome State Fault Refusal :=
  conclude s (anaZrunEffect s)

/-- A symbol of the padded string T of R162. -/
inductive PadSym
  | left
  | sep
  | bit (b : Bool)
  | right
deriving DecidableEq, Repr

/-- T = ^ # s0 # s1 # ... # s(N−1) # $ (R162). -/
def padded (bits : List Bool) : List PadSym :=
  .left :: (bits.flatMap fun b => [.sep, .bit b]) ++ [.sep, .right]

/-- "while T[c + 1 + P[c]] = T[c − 1 − P[c]]: P[c] <- P[c] + 1" (R162). -/
def expandRadius (t : List PadSym) (c : Nat) : (fuel : Nat) → (r : Nat) → Nat
  | 0, r => r
  | fuel + 1, r => if t[c + 1 + r]? = t[c - 1 - r]? then expandRadius t c fuel (r + 1) else r

/-- The variables of R162's loop; `radii` holds P[0 .. c−1]. -/
structure CenterScan where
  radii : List Nat
  center : Nat
  rightEdge : Nat
  best : Nat
  bestCenter : Nat
deriving DecidableEq, Repr

/-- One turn of R162's loop, at centre `c`. -/
def centerStep (t : List PadSym) (m : CenterScan) (c : Nat) : CenterScan :=
  let start := if c < m.rightEdge then min (m.rightEdge - c) (m.radii.getD (2 * m.center - c) 0) else 0
  let r := expandRadius t c t.length start
  { radii := m.radii ++ [r]
    center := if c + r > m.rightEdge then c else m.center
    rightEdge := if c + r > m.rightEdge then c + r else m.rightEdge
    best := if r > m.best then r else m.best
    bestCenter := if r > m.best then c else m.bestCenter }

/-- The source's method: (PAL_START, PAL_LEN) of R162. -/
def centerExpansion (bits : List Bool) : Nat × Nat :=
  let m := (List.range' 1 (2 * bits.length + 1)).foldl (centerStep (padded bits))
    { radii := [0], center := 0, rightEdge := 0, best := 0, bestCenter := 0 }
  ((m.bestCenter - m.best) / 2, m.best)

end Sys2Proof.Machine
end

