-- ==== Sys2Proof/Machine/Encoder.lean ====
section
/-! DEFINITION. The Line Encoder: ENC.NRZL, ENC.NRZI, ENC.MAN, ENC.DMAN and ENC.AMI (41_line_encoder.md). -/

namespace Sys2Proof.Machine

/-- `ENC_common(kind, emit)` up to its completion (R120): validate the whole bit string, then write. -/
def encodeEffect (kind : VKind) (emit : List Bool → List Trit) (s : State) : Except Abort State :=
  match bitStringOperand s with
  | .error a => .error a
  | .ok bits => .ok (storeVoltages kind (emit bits) s)

/-- NRZ-L: 1 gives +1, 0 gives −1 (R121). -/
def emitNrzl (bits : List Bool) : List Trit :=
  bits.map fun b => if b then .plus else .minus

/-- NRZ-I from `level`: a 1 inverts it, and it is emitted either way (R122). -/
def emitNrzi : Trit → List Bool → List Trit
  | _, [] => []
  | level, true :: bits => level.inv :: emitNrzi level.inv bits
  | level, false :: bits => level :: emitNrzi level bits

/-- Manchester: 0 gives (+1, −1), 1 gives (−1, +1) (R123). -/
def emitMan (bits : List Bool) : List Trit :=
  bits.flatMap fun b => if b then [.minus, .plus] else [.plus, .minus]

/-- Differential Manchester from `level`: a 0 inverts it first; emit (level, −level); invert it again (R124). -/
def emitDman : Trit → List Bool → List Trit
  | _, [] => []
  | level, true :: bits => level :: level.inv :: emitDman level.inv bits
  | level, false :: bits => level.inv :: level.inv.inv :: emitDman level.inv.inv bits

/-- AMI from `polarity`: a 0 gives 0, a 1 gives the polarity and inverts it (R125). -/
def emitAmi : Trit → List Bool → List Trit
  | _, [] => []
  | polarity, false :: bits => .zero :: emitAmi polarity bits
  | polarity, true :: bits => polarity :: emitAmi polarity.inv bits

/-- ENC.NRZL (R121). -/
def execEncNrzl (s : State) : Host.Outcome State Fault Refusal :=
  conclude s (encodeEffect .nrzl emitNrzl s)

/-- ENC.NRZI, level initialized to −1 (R122). -/
def execEncNrzi (s : State) : Host.Outcome State Fault Refusal :=
  conclude s (encodeEffect .nrzi (emitNrzi .minus) s)

/-- ENC.MAN (R123). -/
def execEncMan (s : State) : Host.Outcome State Fault Refusal :=
  conclude s (encodeEffect .man emitMan s)

/-- ENC.DMAN, level initialized to −1 (R124). -/
def execEncDman (s : State) : Host.Outcome State Fault Refusal :=
  conclude s (encodeEffect .dman (emitDman .minus) s)

/-- ENC.AMI, polarity initialized to +1 (R125). -/
def execEncAmi (s : State) : Host.Outcome State Fault Refusal :=
  conclude s (encodeEffect .ami (emitAmi .plus) s)

end Sys2Proof.Machine
end

