-- ==== Sys2Proof/Machine/Quantizer.lean ====
section
/-! DEFINITION. The Quantizer: QUANT.PCM and QUANT.DM (40_quantizer.md). Arithmetic is on unbounded integers, samples in
units of 2^(−F) (R9, R104, R108). -/

namespace Sys2Proof.Machine

/-- "min" of the samples (R100); used on a non-empty list only (R101). -/
def sampleMin (xs : List Int) : Int := xs.foldl min (xs.headD 0)

/-- "max" of the samples (R100). -/
def sampleMax (xs : List Int) : Int := xs.foldl max (xs.headD 0)

/-- The level of sample `x`: 0 on a degenerate range (R103), else the exact quotient clamped to 2^B − 1 (R100, R104). -/
def pcmLevel (depth : Nat) (lo hi x : Int) : Nat :=
  if hi = lo then 0
  else min (2 ^ depth - 1) ((2 ^ depth * (x - lo)) / (hi - lo)).toNat

/-- A level as `depth` bits, most significant first (R100). -/
def levelBits (depth level : Nat) : List Bool :=
  (List.range depth).map fun t => level.testBit (depth - 1 - t)

/-- The output bit string of QUANT.PCM (R100). -/
def pcmBits (depth : Nat) (xs : List Int) : List Bool :=
  xs.flatMap fun x => levelBits depth (pcmLevel depth (sampleMin xs) (sampleMax xs) x)

/-- QUANT.PCM up to its completion: the checks in the order of R183, then the writes (R100 to R103). -/
def quantPcmEffect (depth : Nat) (s : State) : Except Abort State :=
  if s.sampLen = 0 then .error (.cmdError .invalidInput)
  else if depth < 1 ∨ s.params.pcmMaxDepth < depth then .error (.cmdError .invalidInput)
  else if s.params.symCap < s.sampLen * depth then .error (.cmdError .capacityExceeded)
  else
    match sampleOperand s with
    | .error a => .error a
    | .ok xs => .ok (storeSymbols ((pcmBits depth xs).map symOf) (s.sampLen * depth) s)

/-- QUANT.PCM B=`depth` (R100). -/
def execQuantPcm (depth : Nat) (s : State) : Host.Outcome State Fault Refusal :=
  conclude s (quantPcmEffect depth s)

/-- The output bits of QUANT.DM from prediction `p` with step `h`: 1 and up where the sample exceeds the prediction, else 0
and down (R105, R107). -/
def dmBits (h : Int) : Int → List Int → List Bool
  | _, [] => []
  | p, x :: xs => if x > p then true :: dmBits h (p + h) xs else false :: dmBits h (p - h) xs

/-- QUANT.DM up to its completion (R105, R106): initial prediction 0, step 0.5 = 2^(F−1). -/
def quantDmEffect (s : State) : Except Abort State :=
  if s.sampLen = 0 then .error (.cmdError .invalidInput)
  else
    match sampleOperand s with
    | .error a => .error a
    | .ok xs =>
      .ok (storeSymbols ((dmBits (2 ^ (s.params.sampleFracBits - 1)) 0 xs).map symOf) s.sampLen s)

/-- QUANT.DM (R105). -/
def execQuantDm (s : State) : Host.Outcome State Fault Refusal :=
  conclude s (quantDmEffect s)

end Sys2Proof.Machine
end

