-- ==== Sys2Proof/Machine/Scrambler.lean ====
section
/-! DEFINITION. The Scrambler: SCR.B8ZS and SCR.HDB3 (42_scrambler.md), in place over VOLT[0 .. VOLT_LEN−1]. The patterns are
the source's, not the telecommunication standards' (93_implementation_defined.md G4). -/

namespace Sys2Proof.Machine

/-- "VOLT[i+j] = 0 for every j in 0 .. width−1" (R141, R142, R143). -/
def windowZero (v : List Trit) (i width : Nat) : Bool :=
  (List.range width).all fun j => decide (v[i + j]? = some .zero)

/-- last_polarity after the cursor passes cell `i` without a substitution: the cell's sign if it is a mark (R141). -/
def lastAfter (v : List Trit) (i : Nat) (last : Trit) : Trit :=
  match v[i]? with
  | some .plus => .plus
  | some .minus => .minus
  | some .zero => last
  | none => last

/-- ones_count after the cursor passes cell `i` without a substitution: one more if it is a mark (R142). -/
def onesAfter (v : List Trit) (i ones : Nat) : Nat :=
  match v[i]? with
  | some .plus => ones + 1
  | some .minus => ones + 1
  | some .zero => ones
  | none => ones

/-- The B8ZS pattern written at `i`: positions 3, 4, 6 and 7 (R141). -/
def b8zsSubstitute (v : List Trit) (i : Nat) (last : Trit) : List Trit :=
  (((v.set (i + 3) last).set (i + 4) last.inv).set (i + 6) last).set (i + 7) last.inv

/-- The B8ZS scan from cursor `i`, in place (R141). Each turn moves the cursor on, so `fuel` = the length is enough. -/
def b8zsScan : (fuel : Nat) → (i : Nat) → (last : Trit) → (v : List Trit) → List Trit
  | 0, _, _, v => v
  | fuel + 1, i, last, v =>
    if i + 8 ≤ v.length then
      if windowZero v i 8 then b8zsScan fuel (i + 8) last.inv (b8zsSubstitute v i last)
      else b8zsScan fuel (i + 1) (lastAfter v i last) v
    else v

/-- The sequence after SCR.B8ZS: last_polarity seeded +1, cursor 0 (R141). -/
def b8zs (v : List Trit) : List Trit := b8zsScan v.length 0 .plus v

/-- The HDB3 pattern written at `i`: position 0 when ones_count is even, position 3 always (R142). -/
def hdb3Substitute (v : List Trit) (i ones : Nat) (last : Trit) : List Trit :=
  (if ones % 2 = 0 then v.set i last.inv else v).set (i + 3) last

/-- The HDB3 scan from cursor `i`, in place; ones_count is reseeded to 1 (R142, R147). -/
def hdb3Scan : (fuel : Nat) → (i : Nat) → (last : Trit) → (ones : Nat) → (v : List Trit) → List Trit
  | 0, _, _, _, v => v
  | fuel + 1, i, last, ones, v =>
    if i + 4 ≤ v.length then
      if windowZero v i 4 then hdb3Scan fuel (i + 4) last.inv 1 (hdb3Substitute v i ones last)
      else hdb3Scan fuel (i + 1) (lastAfter v i last) (onesAfter v i ones) v
    else v

/-- The sequence after SCR.HDB3: last_polarity seeded +1, ones_count 0, cursor 0 (R142). -/
def hdb3 (v : List Trit) : List Trit := hdb3Scan v.length 0 .plus 0 v

/-- A scramble command up to its completion (R140): VKIND must be AMI; then the sequence is rewritten in place. -/
def scrambleEffect (kind : VKind) (scan : List Trit → List Trit) (s : State) : Except Abort State :=
  if s.vkind ≠ .ami then .error (.cmdError .unsupportedTransition)
  else
    match voltageOperand s with
    | .error a => .error a
    | .ok v => .ok (storeScrambled kind (scan v) s)

/-- SCR.B8ZS (R141). -/
def execScrB8zs (s : State) : Host.Outcome State Fault Refusal :=
  conclude s (scrambleEffect .amiB8zs b8zs s)

/-- SCR.HDB3 (R142). -/
def execScrHdb3 (s : State) : Host.Outcome State Fault Refusal :=
  conclude s (scrambleEffect .amiHdb3 hdb3 s)

end Sys2Proof.Machine
end

