-- ==== Sys2Proof/Machine/Dispatch.lean ====
section
/-! DEFINITION. One arm for each command: the engine's execution of a decoded command (70_reset_and_hazards.md R212). -/

namespace Sys2Proof.Machine

/-- What the engine does with a decoded command: it completes, is ended by an error code, or faults over an unwritten cell (R212). -/
def exec (i : Instr) (s : State) : Host.Outcome State Fault Refusal :=
  match i with
  | .quantPcm depth => Sys2Proof.Machine.execQuantPcm depth s
  | .quantDm => Sys2Proof.Machine.execQuantDm s
  | .encNrzl => Sys2Proof.Machine.execEncNrzl s
  | .encNrzi => Sys2Proof.Machine.execEncNrzi s
  | .encMan => Sys2Proof.Machine.execEncMan s
  | .encDman => Sys2Proof.Machine.execEncDman s
  | .encAmi => Sys2Proof.Machine.execEncAmi s
  | .scrB8zs => Sys2Proof.Machine.execScrB8zs s
  | .scrHdb3 => Sys2Proof.Machine.execScrHdb3 s
  | .anaPal => Sys2Proof.Machine.execAnaPal s
  | .anaZrun => Sys2Proof.Machine.execAnaZrun s

end Sys2Proof.Machine
end

