-- ==== Sys2Proof/Machine/Engine.lean ====
section
/-! DEFINITION. The turns of the two agents and of reset, and which of them moves next (10_state.md R20; 60_exceptions.md
R192; 70_reset_and_hazards.md R210 to R213). -/

namespace Sys2Proof.Machine

/-- The engine's step: decode CMD, execute the command, complete; an illegal word completes with UnsupportedTransition
(R84, R212). -/
def engineStep (s : State) : Host.Outcome State Fault Refusal :=
  match decode s.cmd with
  | .error _ => .next (raiseCmdError .unsupportedTransition s)
  | .ok i => exec i s

/-- The host's record of a transaction, newest first (log 7). -/
def observe (tx : Transaction) (reply : Reply) (s : State) : State :=
  { s with observed := { tx := tx, reply := reply } :: s.observed }

/-- The host performs `tx`; `rest` is what the outside world does after it (R50). -/
def hostTransaction (tx : Transaction) (rest : List EnvEvent) (s : State) :
    Host.Outcome State Fault Refusal :=
  match transact tx s with
  | .error f => .fault f
  | .ok (reply, s') => .next (observe tx reply { s' with env := rest })

/-- The read a POLL repeats: STATUS (R89). -/
def pollRead : Transaction := .read 0x00014#17

/-- One turn of POLL: read STATUS, and stay at the POLL while BUSY reads 1 (R66, R89; log 13). -/
def hostPoll (rest : List EnvEvent) (s : State) : Host.Outcome State Fault Refusal :=
  match transact pollRead s with
  | .error f => .fault f
  | .ok (reply, s') =>
    .next (observe pollRead reply { s' with env := if reply.data.getLsbD 0 then .poll :: rest else rest })

/-- The reply to the `n`-th transaction issued during a reset: a FREE VALUE (R210, U3; log 5). -/
def replyDuringReset (tx : Transaction) (n : Nat) : Reply :=
  { resp := if Config.resetOkay n then .okay else .busErr
    data := match tx with
      | .read _ => Config.resetData n
      | .write _ _ => 0#32 }

/-- The transactions issued during a reset have no effect; each is answered with a free value (R210). -/
def observeDuringReset : List Transaction → State → State
  | [], s => s
  | tx :: during, s =>
    observeDuringReset during
      { observe tx (replyDuringReset tx s.draws) s with draws := s.draws + 1 }

/-- Reset, asserted while the host issues `during` (R210). -/
def resetTurn (during : List Transaction) (rest : List EnvEvent) (s : State) : State :=
  observeDuringReset during { resetBlock s with env := rest }

/-- The next event of the outside world; with none left nothing happens (R200). -/
def envStep (s : State) : Host.Outcome State Fault Refusal :=
  match s.env with
  | [] => .next s
  | .bus tx :: rest => hostTransaction tx rest s
  | .poll :: rest => hostPoll rest s
  | .reset during :: rest => .next (resetTurn during rest s)

/-- The engine moves: BUSY = 1 (R212), no reset is asserted (R192), and the host has nothing to do or the schedule does not
put it first (U2; log 4). -/
def engineMoves (s : State) : Bool :=
  s.busy &&
    match s.env with
    | [] => true
    | .reset _ :: _ => false
    | .bus _ :: _ => decide (s.schedule.head? ≠ some .host)
    | .poll :: _ => decide (s.schedule.head? ≠ some .host)

end Sys2Proof.Machine
end

