-- ==== Sys2Proof/Machine/Step.lean ====
section
/-! DEFINITION. One step of the machine, and where a step finds the command it runs. -/

namespace Sys2Proof.Machine

/-- One step: the engine's atomic step on the pending command, or the next event of the outside world (R65, R192, R212).
While a command is pending each step uses up one turn of the schedule (log 4). -/
def step (s : State) : Host.Outcome State Fault Refusal :=
  if engineMoves s then engineStep (takeTurn s)
  else if s.busy then envStep (takeTurn s)
  else envStep s

/-- `s` with the command word of `nbits` bits `w` pending: CMD holds it, BUSY = 1, ERR = 0, as a CMD write leaves them
(R211), and the outside world silent, so that the next step is the engine's (log 6). -/
def State.withFetchWord (s : State) (nbits w : Nat) : State :=
  { s with cmd := BitVec.ofNat 32 (w % 2 ^ nbits), busy := true, err := .ok, env := [] }

end Sys2Proof.Machine
end

