-- ==== Sys2Proof/Machine/HostProgram.lean ====
section
/-! DEFINITION. The host-program notation of 30_encoding.md R87 to R89 as events of the outside world, and the end of a host
program (70_reset_and_hazards.md R216). -/

namespace Sys2Proof.Machine

/-- The mnemonic of R82. -/
def mnemonic : Instr → String
  | .quantPcm _ => "QUANT.PCM"
  | .quantDm => "QUANT.DM"
  | .encNrzl => "ENC.NRZL"
  | .encNrzi => "ENC.NRZI"
  | .encMan => "ENC.MAN"
  | .encDman => "ENC.DMAN"
  | .encAmi => "ENC.AMI"
  | .scrB8zs => "SCR.B8ZS"
  | .scrHdb3 => "SCR.HDB3"
  | .anaPal => "ANA.PAL"
  | .anaZrun => "ANA.ZRUN"

/-- A command as R88 writes it: QUANT.PCM takes its depth as `B=<n>`, every other command its mnemonic alone. -/
def spelling (i : Instr) : String :=
  match i with
  | .quantPcm depth => mnemonic (.quantPcm depth) ++ " B=" ++ toString depth
  | .quantDm => mnemonic .quantDm
  | .encNrzl => mnemonic .encNrzl
  | .encNrzi => mnemonic .encNrzi
  | .encMan => mnemonic .encMan
  | .encDman => mnemonic .encDman
  | .encAmi => mnemonic .encAmi
  | .scrB8zs => mnemonic .scrB8zs
  | .scrHdb3 => mnemonic .scrHdb3
  | .anaPal => mnemonic .anaPal
  | .anaZrun => mnemonic .anaZrun

/-- A line of a host program, with what the program states of its reply (R87). -/
inductive HostLine
  /-- `W addr, data`: the program expects OKAY. -/
  | write (addr : BusAddr) (data : Word)
  /-- `W addr, data -> BUSERR`. -/
  | writeBusErr (addr : BusAddr) (data : Word)
  /-- `R addr`. -/
  | read (addr : BusAddr)
  /-- `R addr == value`. -/
  | readIs (addr : BusAddr) (value : Word)
  /-- `R addr -> BUSERR`. -/
  | readBusErr (addr : BusAddr)
  /-- `POLL` (R89). -/
  | poll
deriving DecidableEq, Repr

/-- What the host does at a line (R87, R89). -/
def lineEvent : HostLine → EnvEvent
  | .write a d => .bus (.write a d)
  | .writeBusErr a d => .bus (.write a d)
  | .read a => .bus (.read a)
  | .readIs a _ => .bus (.read a)
  | .readBusErr a => .bus (.read a)
  | .poll => .poll

/-- Whether a reply is what the line states (R87). -/
def lineHolds (line : HostLine) (reply : Reply) : Bool :=
  match line with
  | .write _ _ => decide (reply.resp = .okay)
  | .writeBusErr _ _ => decide (reply.resp = .busErr)
  | .read _ => true
  | .readIs _ v => decide (reply.resp = .okay) && decide (reply.data = v)
  | .readBusErr _ => decide (reply.resp = .busErr)
  | .poll => decide (reply.resp = .okay)

/-- The address of SYM cell `k` (R56). -/
def symAddr (k : Nat) : BusAddr := BitVec.ofNat 17 (0x04000 + 4 * k)

/-- The address of VOLT cell `k` (R57). -/
def voltAddr (k : Nat) : BusAddr := BitVec.ofNat 17 (0x08000 + 4 * k)

/-- The address of SAMP cell `k` (R59). -/
def sampAddr (k : Nat) : BusAddr := BitVec.ofNat 17 (0x10000 + 4 * k)

/-- `RUN <command>` (R89). -/
def runCommand (i : Instr) : List HostLine := [.write 0x00010#17 (encode i), .poll]

/-- `W <cell k>, <word>` for each word, from cell `k` on. -/
def loadCells (addr : Nat → BusAddr) : Nat → List Word → List HostLine
  | _, [] => []
  | k, w :: ws => .write (addr k) w :: loadCells addr (k + 1) ws

/-- `LOADSYM` of a string given by its byte codes (R89). -/
def loadSym (codes : List Byte) : List HostLine :=
  loadCells symAddr 0 (codes.map symWord) ++ [.write 0x00024#17 (BitVec.ofNat 32 codes.length)]

/-- `LOADVOLT` (R89). -/
def loadVolt (v : List Trit) : List HostLine :=
  loadCells voltAddr 0 (v.map tritWord) ++ [.write 0x00028#17 (BitVec.ofNat 32 v.length)]

/-- `LOADSAMP` (R89). -/
def loadSamp (ws : List Word) : List HostLine :=
  loadCells sampAddr 0 ws ++ [.write 0x00020#17 (BitVec.ofNat 32 ws.length)]

/-- `READSYM n` (R89). -/
def readSymLines (n : Nat) : List HostLine := (List.range n).map fun k => .read (symAddr k)

/-- `READVOLT n` (R89). -/
def readVoltLines (n : Nat) : List HostLine := (List.range n).map fun k => .read (voltAddr k)

/-- `s` with a host program still to run (log 6). The record of earlier replies stays, so the end of a program that reads no
STATUS goes by it (DESIGN CHOICE, log 17). -/
def State.withHostProgram (s : State) (lines : List HostLine) : State :=
  { s with env := lines.map lineEvent }

/-- The last read of STATUS the host made returned BUSY = 0 (R216). DESIGN CHOICE (log 17), where R216 is silent: a STATUS
read issued during a reset counts, by bit 0 of its unspecified data and whatever its response; with no STATUS read on record
the answer is no; and a program that makes none goes by the STATUS reads recorded before it was placed. -/
def lastStatusIdle : List Observation → Bool
  | [] => false
  | o :: rest => if o.tx = pollRead then !o.reply.data.getLsbD 0 else lastStatusIdle rest

/-- A host program has finished (R216). DESIGN CHOICE (log 17), where R216 is silent: an integrator's reset still to come after
the host's last transaction keeps the program unfinished, so its result is the state after that reset. -/
def programFinished (s : State) : Bool := s.env.isEmpty && lastStatusIdle s.observed

/-- What a finished host program leaves (R216). -/
structure ProgramResult where
  bits : Except Nat (List Byte)
  volts : Except Nat (List Trit)
  palStart : Nat
  palLen : Nat
  zrStart : Nat
  zrLen : Nat
  err : ErrCode

/-- The result of R216, at a state where `programFinished` holds. -/
def programResult (s : State) : ProgramResult :=
  { bits := readCells s.mem.sym 0 s.symLen
    volts := readCells s.mem.volt 0 s.voltLen
    palStart := s.palStart
    palLen := s.palLen
    zrStart := s.zrStart
    zrLen := s.zrLen
    err := s.err }

end Sys2Proof.Machine
end

