-- ==== Sys2Proof/Safety.lean ====
section
/-! DEFINITION. What a legal state and a safe run are, and the terms the statements use: contents of the buffers, the cell by
cell results of the commands, and the causes of errors, written from the spec's prose and not from the machine's functions. -/

namespace Sys2Proof.Machine

/-- R29 ("holds in every state"), the bound of R33, the constraints of R6 and the canonical memory. -/
abbrev State.Inv (s : State) : Prop :=
  s.params.wf = true ∧ s.sampLen ≤ s.params.sampCap ∧ s.symLen ≤ s.params.symCap
    ∧ s.voltLen ≤ s.params.voltCap
    ∧ s.palStart ≤ s.params.symCap ∧ s.palLen ≤ s.params.symCap
    ∧ s.zrStart ≤ s.params.voltCap ∧ s.zrLen ≤ s.params.voltCap
    ∧ s.mem.wf s.params = true

/-- The bit string SYM[0 .. SYM_LEN−1] is `bits` (R30). -/
abbrev HoldsBits (s : State) (bits : List Bool) : Prop :=
  s.symLen = bits.length
    ∧ ∀ k, k < bits.length → readCell s.mem.sym k = (bits[k]?).map fun b => if b then 0x31#8 else 0x30#8

/-- The voltage sequence VOLT[0 .. VOLT_LEN−1] is `v` (R31). -/
abbrev HoldsVolts (s : State) (v : List Trit) : Prop :=
  s.voltLen = v.length ∧ ∀ k, k < v.length → readCell s.mem.volt k = v[k]?

/-- The sample words SAMP[0 .. SAMP_LEN−1] are `ws` (R32). -/
abbrev HoldsSamples (s : State) (ws : List Word) : Prop :=
  s.sampLen = ws.length ∧ ∀ k, k < ws.length → readCell s.mem.samp k = ws[k]?

/-- Every cell a command may read as input has been written (R81, R215). -/
abbrev InputsWritten (i : Instr) (s : State) : Prop :=
  match i with
  | .quantPcm _ => ∀ k, k < s.sampLen → (readCell s.mem.samp k).isSome = true
  | .quantDm => ∀ k, k < s.sampLen → (readCell s.mem.samp k).isSome = true
  | .encNrzl => ∀ k, k < s.symLen → (readCell s.mem.sym k).isSome = true
  | .encNrzi => ∀ k, k < s.symLen → (readCell s.mem.sym k).isSome = true
  | .encMan => ∀ k, k < s.symLen → (readCell s.mem.sym k).isSome = true
  | .encDman => ∀ k, k < s.symLen → (readCell s.mem.sym k).isSome = true
  | .encAmi => ∀ k, k < s.symLen → (readCell s.mem.sym k).isSome = true
  | .scrB8zs => ∀ k, k < s.voltLen → (readCell s.mem.volt k).isSome = true
  | .scrHdb3 => ∀ k, k < s.voltLen → (readCell s.mem.volt k).isSome = true
  | .anaPal => ∀ k, k < s.symLen → (readCell s.mem.sym k).isSome = true
  | .anaZrun => ∀ k, k < s.voltLen → (readCell s.mem.volt k).isSome = true

/-- A step is safe: it does not stop. -/
def safeStep (s : State) : Prop := ∃ t, step s = .next t

/-- VKIND = AMI only over an AMI encoding of a non-empty bit string (R148). -/
def AmiDerived (s : State) : Prop :=
  s.vkind = .ami → ∃ bits : List Bool, bits ≠ [] ∧ HoldsVolts s (emitAmi .plus bits)

/-- The number of 1 bits among the first `k`. -/
def onesBefore (bits : List Bool) (k : Nat) : Nat := (bits.take k).count true

/-- Cell `k` of NRZ-L: the bit's own level (R121). -/
def nrzlCell (bits : List Bool) (k : Nat) : Trit := if bits.getD k false then .plus else .minus

/-- Cell `k` of NRZ-I: −1 inverted once for each 1 up to and with bit `k` (R122). -/
def nrziCell (bits : List Bool) (k : Nat) : Trit :=
  if onesBefore bits (k + 1) % 2 = 1 then .plus else .minus

/-- Cell `m` of Manchester: half `m % 2` of bit `m / 2` (R123). -/
def manCell (bits : List Bool) (m : Nat) : Trit :=
  if bits.getD (m / 2) false = decide (m % 2 = 1) then .plus else .minus

/-- Cell `m` of Differential Manchester: the second half of bit `k` is −1 inverted once for each 1 up to and with it, the
first half its negation (R124). -/
def dmanCell (bits : List Bool) (m : Nat) : Trit :=
  if m % 2 = 1 then nrziCell bits (m / 2) else (nrziCell bits (m / 2)).inv

/-- Cell `k` of AMI: 0 for a 0; for a 1, +1 and −1 in turn (R125). -/
def amiCell (bits : List Bool) (k : Nat) : Trit :=
  if bits.getD k false then (if onesBefore bits k % 2 = 0 then .plus else .minus) else .zero

/-- The prediction of delta modulation before sample `j` (R105, R107). -/
def dmPrediction (h : Int) (xs : List Int) : Nat → Int
  | 0 => 0
  | j + 1 =>
    if xs.getD j 0 > dmPrediction h xs j then dmPrediction h xs j + h else dmPrediction h xs j - h

/-- `len` cells from `i` on lie in the sequence and are all 0. -/
def ZeroRun (v : List Trit) (i len : Nat) : Prop :=
  i + len ≤ v.length ∧ ∀ t, t < len → v[i + t]? = some .zero

/-- The `len` symbols from `i` on lie in the string and read the same backwards (R160). -/
def Palindrome (bits : List Bool) (i len : Nat) : Prop :=
  i + len ≤ bits.length ∧ ∀ t, t < len → bits[i + t]? = bits[i + (len - 1 - t)]?

/-- B8ZS as a scan over an unchanged input that writes the output (R144): `pending` is what is left of a pattern. -/
def b8zsCopy (last : Trit) (pending : List Trit) : List Trit → List Trit
  | [] => []
  | x :: rest =>
    match pending with
    | p :: pending => p :: b8zsCopy last pending rest
    | [] =>
      if (x :: rest).take 8 = List.replicate 8 .zero then
        .zero :: b8zsCopy last.inv [.zero, .zero, last, last.inv, .zero, last, last.inv] rest
      else x :: b8zsCopy (if x = .zero then last else x) [] rest

/-- HDB3 as a scan over an unchanged input that writes the output (R144). -/
def hdb3Copy (last : Trit) (ones : Nat) (pending : List Trit) : List Trit → List Trit
  | [] => []
  | x :: rest =>
    match pending with
    | p :: pending => p :: hdb3Copy last ones pending rest
    | [] =>
      if (x :: rest).take 4 = List.replicate 4 .zero then
        (if ones % 2 = 0 then last.inv else .zero) :: hdb3Copy last.inv 1 [.zero, .zero, last] rest
      else x :: hdb3Copy (if x = .zero then last else x) (if x = .zero then ones else ones + 1) [] rest

/-- The net charge of a voltage sequence (R146). -/
def netCharge (v : List Trit) : Int := (v.map Trit.toInt).sum

/-- A command reports InvalidInput (R181), of those a decoded command can meet. -/
def InvalidInputCause (i : Instr) (s : State) : Prop :=
  let badString := s.symLen = 0
    ∨ ∃ k c, k < s.symLen ∧ readCell s.mem.sym k = some c ∧ c ≠ 0x30#8 ∧ c ≠ 0x31#8
  match i with
  | .quantPcm depth => s.sampLen = 0 ∨ depth = 0 ∨ s.params.pcmMaxDepth < depth
  | .quantDm => s.sampLen = 0
  | .encNrzl => badString
  | .encNrzi => badString
  | .encMan => badString
  | .encDman => badString
  | .encAmi => badString
  | .scrB8zs => False
  | .scrHdb3 => False
  | .anaPal => badString
  | .anaZrun => False

/-- A decoded command reports UnsupportedTransition (R181). -/
def UnsupportedCause (i : Instr) (s : State) : Prop :=
  (i = .scrB8zs ∨ i = .scrHdb3) ∧ s.vkind ≠ .ami

/-- A command's output exceeds SYM (R102, R181). -/
def CapacityCause (i : Instr) (s : State) : Prop :=
  ∃ depth, i = .quantPcm depth ∧ s.params.symCap < s.sampLen * depth

/-- No valid register or cell has this byte address (R51, R52, R53). -/
def BadAddress (p : Params) (n : Nat) : Prop :=
  n % 4 ≠ 0 ∨ n = 0x1C ∨ n = 0x2C ∨ (0x40 ≤ n ∧ n < 0x4000)
    ∨ (0x4000 ≤ n ∧ n < 0x8000 ∧ p.symCap ≤ (n - 0x4000) / 4)
    ∨ (0x8000 ≤ n ∧ n < 0x10000 ∧ 2 * p.symCap ≤ (n - 0x8000) / 4)
    ∨ (0x10000 ≤ n ∧ n < 0x14000 ∧ p.sampCap ≤ (n - 0x10000) / 4)
    ∨ 0x14000 ≤ n

/-- The causes of a bus error of a read (R190). -/
def ReadBusErrorCause (s : State) (a : BusAddr) : Prop :=
  BadAddress s.params a.toNat
    ∨ (s.busy = true ∧ a.toNat ≠ 0x0 ∧ a.toNat ≠ 0x4 ∧ a.toNat ≠ 0x8 ∧ a.toNat ≠ 0xC ∧ a.toNat ≠ 0x14)

/-- The causes of a bus error of a write (R190). -/
def WriteBusErrorCause (s : State) (a : BusAddr) (data : Word) : Prop :=
  BadAddress s.params a.toNat
    ∨ s.busy = true
    ∨ a.toNat ∈ [0x0, 0x4, 0x8, 0xC, 0x14, 0x18, 0x30, 0x34, 0x38, 0x3C]
    ∨ (a.toNat = 0x20 ∧ s.params.sampCap < data.toNat)
    ∨ (a.toNat = 0x24 ∧ s.params.symCap < data.toNat)
    ∨ (a.toNat = 0x28 ∧ 2 * s.params.symCap < data.toNat)
    ∨ (0x8000 ≤ a.toNat ∧ a.toNat < 0x10000
        ∧ data ≠ 0x00000000#32 ∧ data ≠ 0x00000001#32 ∧ data ≠ 0xFFFFFFFF#32)

/-- The cell a fault names is unwritten (U1). -/
def FaultNamesUnwritten (f : Fault) (s : State) : Prop :=
  match f with
  | .unwrittenSym k => readCell s.mem.sym k = none
  | .unwrittenVolt k => readCell s.mem.volt k = none
  | .unwrittenSamp k => readCell s.mem.samp k = none

end Sys2Proof.Machine
end

