-- ==== Sys2Proof/Certificates/Slice0/Obligations.lean ====
section
/-! DEFINITION. The statements about the block, from the numbered rules of the spec. -/

namespace Sys2Proof.Statements

open Sys2Proof.Machine

/-- A successful command: BUSY <- 0, ERR <- 0 (R27, R212). -/
def succeeded (s : State) : State := { s with busy := false, err := .ok }

/-- A command ended by an error: BUSY <- 0, ERR <- the code, nothing else (R182). -/
def failed (code : ErrCode) (s : State) : State := { s with busy := false, err := code }

/-- A command on the bit string reports InvalidInput for an empty one, and for one with a cell that is neither 0x30 nor 0x31
after cells that are (R120, R160). -/
def RejectsBadStrings (i : Instr) : Prop :=
  (∀ s : State, s.symLen = 0 → exec i s = .next (failed .invalidInput s))
    ∧ (∀ (s : State) (k : Nat) (c : Byte), k < s.symLen →
        (∀ j, j < k → readCell s.mem.sym j = some 0x30#8 ∨ readCell s.mem.sym j = some 0x31#8) →
        readCell s.mem.sym k = some c → c ≠ 0x30#8 → c ≠ 0x31#8 →
        exec i s = .next (failed .invalidInput s))

/-- An encode command: its word, its errors, and its completion with every VOLT cell it leaves: `width` cells for each bit,
given by `cell`, and every other cell as before. -/
def EncodesAs (i : Instr) (word : Word) (kind : VKind) (width : Nat) (cell : List Bool → Nat → Trit) : Prop :=
  decode word = .ok i ∧ RejectsBadStrings i
    ∧ ∀ (s : State) (bits : List Bool), bits ≠ [] → HoldsBits s bits →
        ∃ volt : Cells Trit,
          exec i s = .next (succeeded { s with
            voltLen := width * bits.length, vkind := kind, mem := { s.mem with volt := volt } })
          ∧ ∀ k, readCell volt k =
              if k < width * bits.length then some (cell bits k) else readCell s.mem.volt k

/-- A scramble command: its word, its refusal of any other provenance, and its completion with every VOLT cell it leaves. -/
def ScramblesAs (i : Instr) (word : Word) (kind : VKind) (out : List Trit → List Trit) : Prop :=
  decode word = .ok i
    ∧ (∀ s : State, s.vkind ≠ .ami → exec i s = .next (failed .unsupportedTransition s))
    ∧ ∀ (s : State) (v : List Trit), s.vkind = .ami → HoldsVolts s v →
        ∃ volt : Cells Trit,
          exec i s = .next (succeeded { s with vkind := kind, mem := { s.mem with volt := volt } })
          ∧ (out v).length = v.length
          ∧ ∀ k, readCell volt k = if k < v.length then (out v)[k]? else readCell s.mem.volt k

/-- An encoding of the Line Encoder, with the kind it leaves (R28, R82). -/
abbrev isEncoder (i : Instr) (kind : VKind) : Prop :=
  (i = .encNrzl ∧ kind = .nrzl) ∨ (i = .encNrzi ∧ kind = .nrzi) ∨ (i = .encMan ∧ kind = .man)
    ∨ (i = .encDman ∧ kind = .dman) ∨ (i = .encAmi ∧ kind = .ami)

/-- A scramble with its window and the kind it leaves (R28, R140, R143). -/
abbrev isScrambler (i : Instr) (kind : VKind) (window : Nat) : Prop :=
  (i = .scrB8zs ∧ kind = .amiB8zs ∧ window = 8) ∨ (i = .scrHdb3 ∧ kind = .amiHdb3 ∧ window = 4)

/-- The kind VKIND holds after a successful command (R28). -/
def kindAfter (i : Instr) (old : VKind) : VKind :=
  match i with
  | .quantPcm _ => old
  | .quantDm => old
  | .encNrzl => .nrzl
  | .encNrzi => .nrzi
  | .encMan => .man
  | .encDman => .dman
  | .encAmi => .ami
  | .scrB8zs => .amiB8zs
  | .scrHdb3 => .amiHdb3
  | .anaPal => old
  | .anaZrun => old

/-- The eleven OP values (R82). -/
def definedOps : List Nat := [0x10, 0x11, 0x20, 0x21, 0x22, 0x23, 0x24, 0x30, 0x31, 0x40, 0x41]

/-- OP and DEPTH of a command, as numbers (R80, R82). -/
def commandFields : Instr → Nat × Nat
  | .quantPcm depth => (0x10, depth)
  | .quantDm => (0x11, 0)
  | .encNrzl => (0x20, 0)
  | .encNrzi => (0x21, 0)
  | .encMan => (0x22, 0)
  | .encDman => (0x23, 0)
  | .encAmi => (0x24, 0)
  | .scrB8zs => (0x30, 0)
  | .scrHdb3 => (0x31, 0)
  | .anaPal => (0x40, 0)
  | .anaZrun => (0x41, 0)

/-- The word R84 calls illegal, by the numbers its fields are. -/
abbrev IllegalWord (w : Word) : Prop :=
  w.toNat / 2 ^ 13 ≠ 0 ∨ w.toNat % 2 ^ 8 ∉ definedOps
    ∨ (w.toNat % 2 ^ 8 ≠ 0x10 ∧ w.toNat / 2 ^ 8 % 2 ^ 5 ≠ 0)

/-- The code STATUS.ERR holds (R27, R180). -/
def errNumber : ErrCode → Nat
  | .ok => 0
  | .invalidInput => 1
  | .unsupportedTransition => 2
  | .capacityExceeded => 3

/-- The code VKIND holds (R28). -/
def kindNumber : VKind → Nat
  | .none => 0
  | .nrzl => 1
  | .nrzi => 2
  | .man => 3
  | .dman => 4
  | .ami => 5
  | .amiB8zs => 6
  | .amiHdb3 => 7
  | .host => 15

end Sys2Proof.Statements

open Sys2Proof Sys2Proof.Machine Sys2Proof.Statements

/-! ## Encoding -/

/-- R82, R88: decoding the command word of a well-formed command gives the command back. -/
def Obligations.DecodeOfEncode : Prop :=
  ∀ i : Instr, i.wf = true → decode (encode i) = .ok i

/-- R80, R86: a word that decodes is the command word of what it decodes to; no two words are one command. -/
def Obligations.EncodeOfDecode : Prop :=
  ∀ (w : Word) (i : Instr), decode w = .ok i → i.wf = true ∧ encode i = w

/-- R84: which words are illegal, what every other word names, and that an illegal one is accepted into CMD and completes with UnsupportedTransition and no other effect. -/
def Obligations.IllegalWordsAreUnsupported : Prop :=
  ∀ w : Word,
    (IllegalWord w ↔ ∃ e, decode w = .error e)
    ∧ (∀ i, decode w = .ok i → commandFields i = (w.toNat % 2 ^ 8, w.toNat / 2 ^ 8 % 2 ^ 5))
    ∧ (IllegalWord w →
        (∀ s : State, s.busy = false →
          busWrite 0x00010#17 w s = (.okay, { s with cmd := w, busy := true, err := .ok }))
        ∧ ∀ s : State, s.cmd = w → engineStep s = .next (failed .unsupportedTransition s))

/-- R90: the spec's encoding examples. -/
def Obligations.EncodingExamplesDecode : Prop :=
  decode 0x00000210#32 = .ok (.quantPcm 2) ∧ decode 0x00001010#32 = .ok (.quantPcm 16)
    ∧ decode 0x00000010#32 = .ok (.quantPcm 0)
    ∧ (∀ s : State, exec (.quantPcm 0) s = .next (failed .invalidInput s))
    ∧ decode 0x00000024#32 = .ok .encAmi
    ∧ decode 0x00000124#32 = .error .depthNotZero
    ∧ decode 0x80000024#32 = .error .reservedBits
    ∧ decode 0x00000025#32 = .error (.undefinedOp 0x25#8)

/-- R85: every DEPTH value of QUANT.PCM decodes; B = 0 and B > PCM_MAX_DEPTH are InvalidInput at execution. -/
def Obligations.EveryPcmDepthDecodes : Prop :=
  ∀ depth, depth < 32 →
    decode (BitVec.ofNat 32 (0x10 + depth * 256)) = .ok (.quantPcm depth)
    ∧ ∀ s : State, depth = 0 ∨ s.params.pcmMaxDepth < depth →
        exec (.quantPcm depth) s = .next (failed .invalidInput s)

/-! ## The quantizer -/

/-- R100, R101, R102: QUANT.PCM: its word, its errors in their order, and its completion with every SYM cell it leaves. -/
def Obligations.PcmQuantizesEachSample : Prop :=
  (∀ depth, depth < 32 → decode (BitVec.ofNat 32 (0x10 + depth * 256)) = .ok (.quantPcm depth))
  ∧ (∀ (s : State) (depth : Nat), s.sampLen = 0 ∨ depth < 1 ∨ s.params.pcmMaxDepth < depth →
      exec (.quantPcm depth) s = .next (failed .invalidInput s))
  ∧ (∀ (s : State) (depth : Nat), s.sampLen ≠ 0 → 1 ≤ depth → depth ≤ s.params.pcmMaxDepth →
      s.params.symCap < s.sampLen * depth →
      exec (.quantPcm depth) s = .next (failed .capacityExceeded s))
  ∧ ∀ (s : State) (depth : Nat) (ws : List Word) (lo hi : Int) (level : Nat → Nat),
      ws ≠ [] → HoldsSamples s ws → 1 ≤ depth → depth ≤ s.params.pcmMaxDepth →
      s.sampLen * depth ≤ s.params.symCap →
      lo ∈ ws.map BitVec.toInt → (∀ x ∈ ws.map BitVec.toInt, lo ≤ x) →
      hi ∈ ws.map BitVec.toInt → (∀ x ∈ ws.map BitVec.toInt, x ≤ hi) →
      (∀ j, j < ws.length → (level j : Int) =
        if hi = lo then 0
        else min (2 ^ depth - 1) ((2 ^ depth * ((ws.getD j 0#32).toInt - lo)) / (hi - lo))) →
      ∃ sym : Cells Byte,
        exec (.quantPcm depth) s = .next (succeeded { s with
          symLen := ws.length * depth, mem := { s.mem with sym := sym } })
        ∧ ∀ c, readCell sym c =
            if c < ws.length * depth then
              some (if (level (c / depth)).testBit (depth - 1 - c % depth) then 0x31#8 else 0x30#8)
            else readCell s.mem.sym c

/-- R103: samples that are all equal (a single one included) give all-zero bits, and the command succeeds. -/
def Obligations.PcmDegenerateRangeIsAllZero : Prop :=
  ∀ (s : State) (depth : Nat) (ws : List Word), ws ≠ [] → HoldsSamples s ws →
    (∀ x ∈ ws, ∀ y ∈ ws, x = y) → 1 ≤ depth → depth ≤ s.params.pcmMaxDepth →
    s.sampLen * depth ≤ s.params.symCap →
    ∃ t, exec (.quantPcm depth) s = .next t ∧ t.err = .ok ∧ t.symLen = s.sampLen * depth
      ∧ ∀ c, c < s.sampLen * depth → readCell t.mem.sym c = some 0x30#8

/-- R104: for hi > lo the unclamped value lies in [0, 2^B] and equals 2^B only for the maximum; every level lies in [0, 2^B − 1]. -/
def Obligations.PcmLevelsAreInRange : Prop :=
  ∀ (depth : Nat) (lo hi x : Int), lo ≤ x → x ≤ hi →
    pcmLevel depth lo hi x ≤ 2 ^ depth - 1
    ∧ (lo < hi →
        0 ≤ (2 ^ depth * (x - lo)) / (hi - lo) ∧ (2 ^ depth * (x - lo)) / (hi - lo) ≤ 2 ^ depth
        ∧ ((2 ^ depth * (x - lo)) / (hi - lo) = 2 ^ depth ↔ x = hi)
        ∧ (pcmLevel depth lo hi x : Int) = min (2 ^ depth - 1) ((2 ^ depth * (x - lo)) / (hi - lo)))

/-- R105, R106: QUANT.DM: its word (DEPTH must be 0), its error, and its completion with every SYM cell it leaves. -/
def Obligations.DmEmitsOneBitPerSample : Prop :=
  decode 0x00000011#32 = .ok .quantDm
  ∧ (∀ depth, 1 ≤ depth → depth < 32 →
      decode (BitVec.ofNat 32 (0x11 + depth * 256)) = .error .depthNotZero)
  ∧ (∀ s : State, s.sampLen = 0 → exec .quantDm s = .next (failed .invalidInput s))
  ∧ ∀ (s : State) (ws : List Word), ws ≠ [] → HoldsSamples s ws →
      ∃ sym : Cells Byte,
        exec .quantDm s = .next (succeeded { s with
          symLen := ws.length, mem := { s.mem with sym := sym } })
        ∧ ∀ j, readCell sym j =
            if j < ws.length then
              some (if (ws.getD j 0#32).toInt
                > dmPrediction (2 ^ (s.params.sampleFracBits - 1)) (ws.map BitVec.toInt) j
                then 0x31#8 else 0x30#8)
            else readCell s.mem.sym j

/-- R107: the prediction QUANT.DM's bit function carries past `j` samples: started there, it gives the bits that follow, for
whatever samples follow; it emits 1 exactly where the sample exceeds it; it is within `j` steps of 0, and below 2^43 in every
legal instance. -/
def Obligations.DmPredictionIsBounded : Prop :=
  ∀ (p : Params) (xs : List Int) (j : Nat), p.wf = true → j ≤ xs.length →
    let h : Int := 2 ^ (p.sampleFracBits - 1)
    (∀ ys, dmBits h 0 (xs.take j ++ ys) = dmBits h 0 (xs.take j) ++ dmBits h (dmPrediction h xs j) ys)
    ∧ (∀ x, xs[j]? = some x → (dmBits h 0 xs)[j]? = some (decide (x > dmPrediction h xs j)))
    ∧ -(j * h) ≤ dmPrediction h xs j ∧ dmPrediction h xs j ≤ j * h
    ∧ (xs.length ≤ p.sampCap → -2 ^ 43 < dmPrediction h xs j ∧ dmPrediction h xs j < 2 ^ 43)

/-! ## The line encoder -/

/-- R121: ENC.NRZL: its word, its errors, and its completion. -/
def Obligations.NrzlEncodesEachBit : Prop := EncodesAs .encNrzl 0x00000020#32 .nrzl 1 nrzlCell

/-- R122: ENC.NRZI: its word, its errors, and its completion. -/
def Obligations.NrziInvertsOnOnes : Prop := EncodesAs .encNrzi 0x00000021#32 .nrzi 1 nrziCell

/-- R123: ENC.MAN: its word, its errors, and its completion. -/
def Obligations.ManchesterEncodesPairs : Prop := EncodesAs .encMan 0x00000022#32 .man 2 manCell

/-- R124: ENC.DMAN: its word, its errors, and its completion. -/
def Obligations.DifferentialManchesterEncodesPairs : Prop :=
  EncodesAs .encDman 0x00000023#32 .dman 2 dmanCell

/-- R125: ENC.AMI: its word, its errors, and its completion. -/
def Obligations.AmiAlternatesMarks : Prop := EncodesAs .encAmi 0x00000024#32 .ami 1 amiCell

/-- R126: the properties the source states of the five encodings, of the cells the command leaves. -/
def Obligations.EncodingsHaveTheStatedShape : Prop :=
  ∀ (s : State) (bits : List Bool), bits ≠ [] → HoldsBits s bits →
    (∃ t, exec .encNrzl s = .next t ∧ t.voltLen = bits.length
      ∧ ∀ k, k < bits.length → readCell t.mem.volt k = some .plus ∨ readCell t.mem.volt k = some .minus)
    ∧ (∃ t, exec .encNrzi s = .next t ∧ t.voltLen = bits.length
      ∧ ∀ k, k < bits.length → readCell t.mem.volt k = some .plus ∨ readCell t.mem.volt k = some .minus)
    ∧ (∃ t, exec .encMan s = .next t ∧ t.voltLen = 2 * bits.length
      ∧ ∀ k, k < bits.length →
          (readCell t.mem.volt (2 * k) = some .plus ∧ readCell t.mem.volt (2 * k + 1) = some .minus)
          ∨ (readCell t.mem.volt (2 * k) = some .minus ∧ readCell t.mem.volt (2 * k + 1) = some .plus))
    ∧ (∃ t, exec .encDman s = .next t ∧ t.voltLen = 2 * bits.length
      ∧ ∀ k, k < bits.length →
          (readCell t.mem.volt (2 * k) = some .plus ∧ readCell t.mem.volt (2 * k + 1) = some .minus)
          ∨ (readCell t.mem.volt (2 * k) = some .minus ∧ readCell t.mem.volt (2 * k + 1) = some .plus))
    ∧ (∃ t, exec .encAmi s = .next t ∧ t.voltLen = bits.length
      ∧ (∀ k, k < bits.length → (∀ j, j < k → readCell t.mem.volt j = some .zero) →
          readCell t.mem.volt k = some .zero ∨ readCell t.mem.volt k = some .plus)
      ∧ ∀ j k a b, j < k → k < bits.length → readCell t.mem.volt j = some a → readCell t.mem.volt k = some b →
          a ≠ .zero → b ≠ .zero →
          (∀ m, j < m → m < k → readCell t.mem.volt m = some .zero) → b = a.inv)

/-- R126: every encode is a function of SYM[0 .. N−1] alone: two states with one bit string, whatever else they hold. -/
def Obligations.EncodeDependsOnTheBitStringAlone : Prop :=
  ∀ (i : Instr) (kind : VKind) (s₁ s₂ t₁ t₂ : State), isEncoder i kind →
    s₁.symLen = s₂.symLen →
    (∀ k, k < s₁.symLen → readCell s₁.mem.sym k = readCell s₂.mem.sym k) →
    exec i s₁ = .next t₁ → exec i s₂ = .next t₂ →
    t₁.err = t₂.err
    ∧ (t₁.err = .ok → t₁.voltLen = t₂.voltLen ∧ t₁.vkind = kind ∧ t₂.vkind = kind
      ∧ ∀ k, k < t₁.voltLen → readCell t₁.mem.volt k = readCell t₂.mem.volt k)

/-- R214: re-running an encode on the same bit string leaves the same state. -/
def Obligations.EncodeIsIdempotent : Prop :=
  ∀ (i : Instr) (kind : VKind) (s t : State), isEncoder i kind →
    exec i s = .next t → t.err = .ok → exec i t = .next t

/-! ## The scrambler -/

/-- R141: SCR.B8ZS: its word, its error, and its completion; the output is told by the scan over an unchanged copy (R144). -/
def Obligations.B8zsSubstitutesWindows : Prop :=
  ScramblesAs .scrB8zs 0x00000030#32 .amiB8zs (b8zsCopy .plus [])

/-- R142: SCR.HDB3: its word, its error, and its completion; the output is told by the scan over an unchanged copy (R144). -/
def Obligations.Hdb3SubstitutesWindows : Prop :=
  ScramblesAs .scrHdb3 0x00000031#32 .amiHdb3 (hdb3Copy .plus 0 [])

/-- R144: the in-place scan gives what the scan over an unchanged copy gives, on every voltage sequence. -/
def Obligations.InPlaceEqualsCopy : Prop :=
  ∀ v : List Trit, b8zs v = b8zsCopy .plus [] v ∧ hdb3 v = hdb3Copy .plus 0 [] v

/-- R64: VOLT_LEN is not written, and a cell that changes lies in a window of zeros below VOLT_LEN. -/
def Obligations.ScramblersRewriteZeroWindowsOnly : Prop :=
  ∀ (i : Instr) (kind : VKind) (window : Nat) (s t : State), isScrambler i kind window →
    exec i s = .next t →
    t.voltLen = s.voltLen
    ∧ ∀ k, readCell t.mem.volt k ≠ readCell s.mem.volt k →
        ∃ start, start ≤ k ∧ k < start + window ∧ start + window ≤ s.voltLen
          ∧ ∀ j, j < window → readCell s.mem.volt (start + j) = some .zero

/-- R145: after SCR.B8ZS no 8 consecutive zeros are left, after SCR.HDB3 no 4. -/
def Obligations.NoLongZeroRunSurvives : Prop :=
  ∀ (i : Instr) (kind : VKind) (window : Nat) (s t : State), isScrambler i kind window →
    exec i s = .next t → t.err = .ok →
    ∀ start, start + window ≤ t.voltLen →
      ∃ j, j < window ∧ readCell t.mem.volt (start + j) ≠ some .zero

/-- R146: B8ZS adds no net charge, on every voltage sequence. -/
def Obligations.B8zsKeepsNetCharge : Prop :=
  ∀ v : List Trit, netCharge (b8zs v) = netCharge v

/-- R147: only the parity of ones_count affects the HDB3 scan. -/
def Obligations.Hdb3DependsOnParity : Prop :=
  ∀ (fuel i ones : Nat) (last : Trit) (v : List Trit),
    hdb3Scan fuel i last ones v = hdb3Scan fuel i last (ones % 2) v

/-- R214: after a successful scramble both scramble commands fail with UnsupportedTransition. -/
def Obligations.ScrambleAgainFails : Prop :=
  ∀ (i j : Instr) (ki kj : VKind) (wi wj : Nat) (s t : State), isScrambler i ki wi → isScrambler j kj wj →
    exec i s = .next t → t.err = .ok → exec j t = .next (failed .unsupportedTransition t)

/-! ## The analyzer -/

/-- R160, R163: ANA.PAL: its word, its errors, and its completion with the longest palindrome, leftmost among equals. -/
def Obligations.PalindromeIsLongestAndLeftmost : Prop :=
  decode 0x00000040#32 = .ok .anaPal ∧ RejectsBadStrings .anaPal
  ∧ ∀ (s : State) (bits : List Bool), bits ≠ [] → HoldsBits s bits →
      ∃ start len, exec .anaPal s = .next (succeeded { s with palStart := start, palLen := len })
        ∧ 1 ≤ len ∧ Palindrome bits start len
        ∧ (∀ i l, Palindrome bits i l → l ≤ len)
        ∧ ∀ i, Palindrome bits i len → start ≤ i

/-- R161, R164: ANA.ZRUN: its word, and its completion for every VKIND with the longest zero run, leftmost among equals. -/
def Obligations.ZeroRunIsLongestAndLeftmost : Prop :=
  decode 0x00000041#32 = .ok .anaZrun
  ∧ ∀ (s : State) (v : List Trit), HoldsVolts s v →
      ∃ start len, exec .anaZrun s = .next (succeeded { s with zrStart := start, zrLen := len })
        ∧ ZeroRun v start len
        ∧ (∀ i l, ZeroRun v i l → l ≤ len)
        ∧ (∀ i, 0 < len → ZeroRun v i len → start ≤ i)
        ∧ (len = 0 → start = 0)

/-- R162: the source's center-expansion method gives the result of R160. -/
def Obligations.CenterExpansionFindsThePalindrome : Prop :=
  ∀ bits : List Bool, bits ≠ [] → centerExpansion bits = longestPal bits

/-! ## Errors and frames of every command -/

/-- R182, R184: a step of the engine that ends with an error changes only STATUS. -/
def Obligations.FailedCommandChangesOnlyStatus : Prop :=
  ∀ s t : State, engineStep s = .next t → t.err ≠ .ok → t = { s with busy := false, err := t.err }

/-- R181, R183: which error a command reports, and when. -/
def Obligations.ErrorsHaveTheirCauses : Prop :=
  (∀ (s t : State) (e : DecodeError), decode s.cmd = .error e → engineStep s = .next t →
      t.err = .unsupportedTransition)
  ∧ ∀ (i : Instr) (s t : State), exec i s = .next t →
      (t.err = .invalidInput ↔ InvalidInputCause i s)
      ∧ (t.err = .unsupportedTransition ↔ UnsupportedCause i s)
      ∧ (t.err = .capacityExceeded ↔ CapacityCause i s ∧ ¬InvalidInputCause i s)

/-- R213: every command whose input cells are written completes. -/
def Obligations.WrittenInputsComplete : Prop :=
  ∀ (i : Instr) (s : State), InputsWritten i s → ∃ t, exec i s = .next t ∧ t.busy = false

/-- R29, R32, R81: what no command changes: CMD, SAMP, SAMP_LEN, and the model's own fields: parameters and the outside world
(log 3 to log 7). -/
def Obligations.CommandsKeepCmdAndSamples : Prop :=
  ∀ (i : Instr) (s t : State), exec i s = .next t →
    t.params = s.params ∧ t.cmd = s.cmd ∧ t.sampLen = s.sampLen ∧ t.mem.samp = s.mem.samp
    ∧ t.env = s.env ∧ t.schedule = s.schedule ∧ t.observed = s.observed ∧ t.draws = s.draws

/-- R63: a command writes only the cells and registers its rule names; output cells at or beyond the new length stay. -/
def Obligations.CommandsWriteOnlyWhatTheyName : Prop :=
  ∀ (i : Instr) (s t : State), exec i s = .next t →
    match i with
    | .quantPcm _ | .quantDm =>
      t = { s with busy := t.busy, err := t.err, symLen := t.symLen, mem := { s.mem with sym := t.mem.sym } }
      ∧ (t.err = .ok → ∀ k, t.symLen ≤ k → readCell t.mem.sym k = readCell s.mem.sym k)
    | .encNrzl | .encNrzi | .encMan | .encDman | .encAmi =>
      t = { s with busy := t.busy, err := t.err, voltLen := t.voltLen, vkind := t.vkind,
                   mem := { s.mem with volt := t.mem.volt } }
      ∧ (t.err = .ok → ∀ k, t.voltLen ≤ k → readCell t.mem.volt k = readCell s.mem.volt k)
    | .scrB8zs | .scrHdb3 =>
      t = { s with busy := t.busy, err := t.err, vkind := t.vkind, mem := { s.mem with volt := t.mem.volt } }
      ∧ ∀ k, s.voltLen ≤ k → readCell t.mem.volt k = readCell s.mem.volt k
    | .anaPal => t = { s with busy := t.busy, err := t.err, palStart := t.palStart, palLen := t.palLen }
    | .anaZrun => t = { s with busy := t.busy, err := t.err, zrStart := t.zrStart, zrLen := t.zrLen }

/-- R28: what VKIND records: each successful command's kind; a failed command, a read and a reset as the table says. -/
def Obligations.VkindRecordsProvenance : Prop :=
  (∀ (i : Instr) (s t : State), exec i s = .next t →
    t.vkind = if t.err = .ok then kindAfter i s.vkind else s.vkind)
  ∧ (∀ (a : BusAddr) (d : Word) (s : State),
      (busWrite a d s).2.vkind =
        if (busWrite a d s).1 = .okay ∧ (a.toNat = 0x28 ∨ (0x8000 ≤ a.toNat ∧ a.toNat < 0x10000))
        then .host else s.vkind)
  ∧ (∀ s : State, (resetBlock s).vkind = .none)
  ∧ ∀ s : State, s.busy = false →
      busRead 0x00018#17 s = .ok { resp := .okay, data := BitVec.ofNat 32 (kindNumber s.vkind) }

/-- R39, R210, R221, U1: a command, or a host read, that meets an unwritten cell stops with a fault that names it. The model's
treatment: the fault (log 1); an unwritten cell of the bit string before any bad one faults (log 9); the scramblers and ANA.ZRUN
read every cell below VOLT_LEN, so that one where R141 and R142 test no cell faults too (log 10). -/
def Obligations.UnwrittenCellsFault : Prop :=
  (∀ (i : Instr) (k : Nat) (s : State),
      i = .encNrzl ∨ i = .encNrzi ∨ i = .encMan ∨ i = .encDman ∨ i = .encAmi ∨ i = .anaPal →
      k < s.symLen →
      (∀ j, j < k → readCell s.mem.sym j = some 0x30#8 ∨ readCell s.mem.sym j = some 0x31#8) →
      readCell s.mem.sym k = none → exec i s = .fault (.unwrittenSym k))
  ∧ (∀ (i : Instr) (k : Nat) (s : State),
      i = .anaZrun ∨ ((i = .scrB8zs ∨ i = .scrHdb3) ∧ s.vkind = .ami) →
      k < s.voltLen → (∀ j, j < k → (readCell s.mem.volt j).isSome = true) →
      readCell s.mem.volt k = none → exec i s = .fault (.unwrittenVolt k))
  ∧ (∀ (i : Instr) (k : Nat) (s : State),
      i = .quantDm ∨ (∃ depth, i = .quantPcm depth ∧ 1 ≤ depth ∧ depth ≤ s.params.pcmMaxDepth
        ∧ s.sampLen * depth ≤ s.params.symCap) →
      k < s.sampLen → (∀ j, j < k → (readCell s.mem.samp j).isSome = true) →
      readCell s.mem.samp k = none → exec i s = .fault (.unwrittenSamp k))
  ∧ ∀ (k : Nat) (s : State), s.params.wf = true → s.busy = false →
      (k < s.params.symCap → readCell s.mem.sym k = none →
        busRead (BitVec.ofNat 17 (0x4000 + 4 * k)) s = .error (.unwrittenSym k))
      ∧ (k < 2 * s.params.symCap → readCell s.mem.volt k = none →
        busRead (BitVec.ofNat 17 (0x8000 + 4 * k)) s = .error (.unwrittenVolt k))
      ∧ (k < s.params.sampCap → readCell s.mem.samp k = none →
        busRead (BitVec.ofNat 17 (0x10000 + 4 * k)) s = .error (.unwrittenSamp k))

/-- R39, R221, U1: the machine faults only over an unwritten cell, which the fault names (the model's treatment, log 1), and it
never refuses. -/
def Obligations.StopsOnlyOnUnwrittenCells : Prop :=
  ∀ s : State, (∀ f, step s = .fault f → FaultNamesUnwritten f s) ∧ ∀ r, step s ≠ .refused r

/-! ## The bus -/

/-- R24, R25: the constant registers, busy or idle. -/
def Obligations.ConstantRegistersRead : Prop :=
  ∀ s : State,
    busRead 0x00000#17 s = .ok { resp := .okay, data := 0x44534743#32 }
    ∧ busRead 0x00004#17 s = .ok { resp := .okay, data := 0x00000001#32 }
    ∧ (s.params.wf = true →
        busRead 0x00008#17 s =
          .ok { resp := .okay, data := BitVec.ofNat 32 (s.params.sampCap * 2 ^ 16 + s.params.symCap) }
        ∧ busRead 0x0000C#17 s =
          .ok { resp := .okay, data := BitVec.ofNat 32 (s.params.sampleFracBits * 2 ^ 8 + s.params.pcmMaxDepth) })
    ∧ (s.params = Params.default →
        busRead 0x00008#17 s = .ok { resp := .okay, data := 0x04000400#32 }
        ∧ busRead 0x0000C#17 s = .ok { resp := .okay, data := 0x00001010#32 })

/-- R22, R27: STATUS reads BUSY in bit 0 and ERR in bits [9:8], the rest 0, busy or idle. -/
def Obligations.StatusReadsBusyAndErr : Prop :=
  ∀ s : State,
    busRead 0x00014#17 s =
      .ok { resp := .okay, data := BitVec.ofNat 32 ((if s.busy then 1 else 0) + 2 ^ 8 * errNumber s.err) }

/-- R22, R60: while idle, a read of CMD, a length or a result register returns the register's value. -/
def Obligations.IdleRegistersRead : Prop :=
  ∀ s : State, s.busy = false →
    busRead 0x00010#17 s = .ok { resp := .okay, data := s.cmd }
    ∧ busRead 0x00020#17 s = .ok { resp := .okay, data := BitVec.ofNat 32 s.sampLen }
    ∧ busRead 0x00024#17 s = .ok { resp := .okay, data := BitVec.ofNat 32 s.symLen }
    ∧ busRead 0x00028#17 s = .ok { resp := .okay, data := BitVec.ofNat 32 s.voltLen }
    ∧ busRead 0x00030#17 s = .ok { resp := .okay, data := BitVec.ofNat 32 s.palStart }
    ∧ busRead 0x00034#17 s = .ok { resp := .okay, data := BitVec.ofNat 32 s.palLen }
    ∧ busRead 0x00038#17 s = .ok { resp := .okay, data := BitVec.ofNat 32 s.zrStart }
    ∧ busRead 0x0003C#17 s = .ok { resp := .okay, data := BitVec.ofNat 32 s.zrLen }

/-- R211: acceptance of a command word while idle, and its refusal while busy. -/
def Obligations.CmdWriteIsAccepted : Prop :=
  ∀ (s : State) (data : Word),
    (s.busy = false →
      busWrite 0x00010#17 data s = (.okay, { s with cmd := data, busy := true, err := .ok }))
    ∧ (s.busy = true → busWrite 0x00010#17 data s = (.busErr, s))

/-- R29, R58: a length is stored where it fits its buffer, else the write is a BUSERR; VOLT_LEN makes VKIND HOST. -/
def Obligations.LengthWritesAreChecked : Prop :=
  ∀ (s : State) (data : Word), s.busy = false →
    busWrite 0x00020#17 data s =
        (if data.toNat ≤ s.params.sampCap then (.okay, { s with sampLen := data.toNat }) else (.busErr, s))
    ∧ busWrite 0x00024#17 data s =
        (if data.toNat ≤ s.params.symCap then (.okay, { s with symLen := data.toNat }) else (.busErr, s))
    ∧ busWrite 0x00028#17 data s =
        (if data.toNat ≤ 2 * s.params.symCap then (.okay, { s with voltLen := data.toNat, vkind := .host })
         else (.busErr, s))

/-- R56: a SYM cell while idle: a read zero-extends it, a write stores data[7:0] and changes nothing else. -/
def Obligations.SymCellsReadAndWrite : Prop :=
  ∀ (s : State) (k : Nat), s.params.wf = true → s.busy = false → k < s.params.symCap →
    (∀ c, readCell s.mem.sym k = some c →
      busRead (BitVec.ofNat 17 (0x4000 + 4 * k)) s =
        .ok { resp := .okay, data := BitVec.ofNat 32 c.toNat })
    ∧ ∀ data : Word, ∃ sym : Cells Byte,
        busWrite (BitVec.ofNat 17 (0x4000 + 4 * k)) data s =
          (.okay, { s with mem := { s.mem with sym := sym } })
        ∧ ∀ j, readCell sym j =
            if j = k then some (BitVec.ofNat 8 (data.toNat % 2 ^ 8)) else readCell s.mem.sym j

/-- R57, R58: a VOLT cell while idle: a read sign-extends it; a write of −1, 0 or +1 stores it and makes VKIND HOST; any
other write is a BUSERR with no effect. -/
def Obligations.VoltCellsReadAndWrite : Prop :=
  ∀ (s : State) (k : Nat), s.params.wf = true → s.busy = false → k < 2 * s.params.symCap →
    (∀ c, readCell s.mem.volt k = some c →
      busRead (BitVec.ofNat 17 (0x8000 + 4 * k)) s = .ok { resp := .okay, data := BitVec.ofInt 32 c.toInt })
    ∧ (∀ c : Trit, ∃ volt : Cells Trit,
        busWrite (BitVec.ofNat 17 (0x8000 + 4 * k)) (BitVec.ofInt 32 c.toInt) s =
          (.okay, { s with vkind := .host, mem := { s.mem with volt := volt } })
        ∧ ∀ j, readCell volt j = if j = k then some c else readCell s.mem.volt j)
    ∧ ∀ data : Word, data ≠ 0x00000000#32 → data ≠ 0x00000001#32 → data ≠ 0xFFFFFFFF#32 →
        busWrite (BitVec.ofNat 17 (0x8000 + 4 * k)) data s = (.busErr, s)

/-- R59: a SAMP cell while idle: a read returns it, a write stores the word and changes nothing else. -/
def Obligations.SampCellsReadAndWrite : Prop :=
  ∀ (s : State) (k : Nat), s.params.wf = true → s.busy = false → k < s.params.sampCap →
    (∀ w, readCell s.mem.samp k = some w →
      busRead (BitVec.ofNat 17 (0x10000 + 4 * k)) s = .ok { resp := .okay, data := w })
    ∧ ∀ data : Word, ∃ samp : Cells Word,
        busWrite (BitVec.ofNat 17 (0x10000 + 4 * k)) data s =
          (.okay, { s with mem := { s.mem with samp := samp } })
        ∧ ∀ j, readCell samp j = if j = k then some data else readCell s.mem.samp j

/-- R50, R51, R53, R190: a transaction is a BUSERR exactly for the listed causes; it then has no effect and a read's data is 0. -/
def Obligations.BusErrorsHaveTheirCauses : Prop :=
  ∀ (s : State) (a : BusAddr) (data : Word),
    ((busWrite a data s).1 = .busErr ↔ WriteBusErrorCause s a data)
    ∧ ((busWrite a data s).1 = .busErr → (busWrite a data s).2 = s)
    ∧ (ReadBusErrorCause s a ↔ ∃ r, busRead a s = .ok r ∧ r.resp = .busErr)
    ∧ ∀ r, busRead a s = .ok r → r.resp = .busErr → r.data = 0#32

/-- R38: while busy, ID, VERSION, CAPS0, CAPS1 and STATUS read as when idle, and every other transaction is a BUSERR with no
effect. -/
def Obligations.BusyBlocksTheHost : Prop :=
  ∀ s : State, s.busy = true →
    (∀ a : BusAddr, a.toNat = 0x0 ∨ a.toNat = 0x4 ∨ a.toNat = 0x8 ∨ a.toNat = 0xC →
      busRead a s = busRead a { s with busy := false })
    ∧ busRead 0x00014#17 s = .ok { resp := .okay, data := statusWord s }
    ∧ (∀ a : BusAddr, a.toNat ≠ 0x0 → a.toNat ≠ 0x4 → a.toNat ≠ 0x8 → a.toNat ≠ 0xC → a.toNat ≠ 0x14 →
      busRead a s = .ok { resp := .busErr, data := 0#32 })
    ∧ ∀ (a : BusAddr) (data : Word), busWrite a data s = (.busErr, s)

/-! ## Steps, reset and invariants -/

/-- R84, R212: where the engine moves (log 4), the step is the engine's step with one turn of the schedule used up: the command
CMD decodes to, or UnsupportedTransition and no other effect for an illegal word; `withFetchWord` (log 6) places a word so that
the next step is that. -/
def Obligations.StepRunsThePendingCommand : Prop :=
  (∀ s : State, engineMoves s = true →
    step s = engineStep { s with schedule := s.schedule.tail }
    ∧ (∀ i, decode s.cmd = .ok i → step s = exec i { s with schedule := s.schedule.tail })
    ∧ ∀ e, decode s.cmd = .error e →
        step s = .next (failed .unsupportedTransition { s with schedule := s.schedule.tail }))
  ∧ (∀ (s : State) (w : Nat) (i : Instr), decodeTableWord 32 w = some i →
      step (s.withFetchWord 32 w) =
        exec i { s.withFetchWord 32 w with schedule := s.schedule.tail })
  ∧ ∀ (s : State) (w : Nat), decodeTableWord 32 w = none →
      step (s.withFetchWord 32 w) =
        .next (failed .unsupportedTransition { s.withFetchWord 32 w with schedule := s.schedule.tail })

/-- R20, R192, R200, R212: who moves. The engine moves while BUSY = 1 where the outside world is silent, or its next event is no
reset and the schedule does not put the host first; it does not move while idle, where a reset comes next, or where the schedule
puts the host first, and then the step is the outside world's next event, with one turn of the schedule used up while BUSY = 1.
An idle step with nothing outside leaves the state. The model's own: the schedule (log 4), the events of the outside world
(log 5, log 6), the idle step (log 12). -/
def Obligations.StepArbitratesTheAgents : Prop :=
  (∀ s : State, s.busy = true → s.env = [] → engineMoves s = true)
  ∧ (∀ (s : State) e rest, s.busy = true → s.env = e :: rest → (∀ d, e ≠ .reset d) →
      s.schedule.head? ≠ some .host → engineMoves s = true)
  ∧ (∀ (s : State) e rest, s.busy = true → s.env = e :: rest → (∀ d, e ≠ .reset d) →
      s.schedule.head? = some .host →
      engineMoves s = false ∧ step s = envStep { s with schedule := s.schedule.tail })
  ∧ (∀ s : State, s.busy = false → engineMoves s = false ∧ step s = envStep s)
  ∧ (∀ s : State, s.busy = false → s.env = [] → step s = .next s)
  ∧ ∀ (s : State) (during : List Transaction) (rest : List EnvEvent), s.env = .reset during :: rest →
      engineMoves s = false

/-- R50, R65: an idle step performs the host's next transaction (from `env`, log 6): a read leaves the block as it is, a write
leaves what the write leaves; the reply is recorded (log 7; a write's with data 0, log 8). BusyStepRecordsTheReply is its
companion for BUSY = 1. -/
def Obligations.IdleStepPerformsTheTransaction : Prop :=
  (∀ (s : State) (a : BusAddr) (rest : List EnvEvent) (r : Reply), s.busy = false →
    s.env = .bus (.read a) :: rest → busRead a s = .ok r →
    step s = .next { s with env := rest, observed := { tx := .read a, reply := r } :: s.observed })
  ∧ ∀ (s : State) (a : BusAddr) (data : Word) (rest : List EnvEvent), s.busy = false →
      s.env = .bus (.write a data) :: rest →
      step s = .next { (busWrite a data s).2 with
        env := rest
        observed := { tx := .write a data, reply := { resp := (busWrite a data s).1, data := 0#32 } } :: s.observed }

/-- R66, R89: POLL reads STATUS, goes on where it reads BUSY = 0, and, in a turn that the schedule gives the host, stays where
it reads BUSY = 1. The model's own: POLL as one event of `env` (log 6, log 13), the schedule (log 4), the record (log 7). -/
def Obligations.PollWaitsForCompletion : Prop :=
  ∀ (s : State) (rest : List EnvEvent), s.env = .poll :: rest →
    (s.busy = false →
      step s = .next { s with
        env := rest
        observed := { tx := .read 0x00014#17, reply := { resp := .okay, data := statusWord s } } :: s.observed })
    ∧ (s.busy = true → s.schedule.head? = some .host →
      step s = .next { s with
        schedule := s.schedule.tail
        observed := { tx := .read 0x00014#17, reply := { resp := .okay, data := statusWord s } } :: s.observed })

/-- R39: what reset leaves, every register and every cell, for every choice of parameters (a field of the model's own, log 3). -/
def Obligations.ResetStateHasTheListedValues : Prop :=
  ∀ p : Params,
    (State.resetOf p).cmd = 0x00000000#32 ∧ (State.resetOf p).busy = false ∧ (State.resetOf p).err = .ok
    ∧ (State.resetOf p).vkind = .none
    ∧ (State.resetOf p).sampLen = 0 ∧ (State.resetOf p).symLen = 0 ∧ (State.resetOf p).voltLen = 0
    ∧ (State.resetOf p).palStart = 0 ∧ (State.resetOf p).palLen = 0
    ∧ (State.resetOf p).zrStart = 0 ∧ (State.resetOf p).zrLen = 0
    ∧ ∀ k, readCell (State.resetOf p).mem.sym k = none ∧ readCell (State.resetOf p).mem.volt k = none
      ∧ readCell (State.resetOf p).mem.samp k = none

/-- R192, R210: a reset, busy or not, comes first, sets every register and leaves every cell unwritten; a transaction during it
changes nothing of the block. The model's own: reset as an event with the transactions issued during it, their replies left free
(log 5, log 6), and the host's record, which a reset does not clear and which gains those transactions (log 7). -/
def Obligations.ResetTakesEffectFromEveryState : Prop :=
  ∀ (s : State) (during : List Transaction) (rest : List EnvEvent), s.env = .reset during :: rest →
    ∃ t, step s = .next t
      ∧ t = { State.resetOf s.params with
                env := rest, schedule := t.schedule, observed := t.observed, draws := t.draws }
      ∧ t.observed.map (fun o => o.tx) = during.reverse ++ s.observed.map (fun o => o.tx)

/-- R29, R33: the invariant of the block holds after reset, for every legal choice of parameters; the parameters as a field
(log 3) and the canonical form of the memory (log 2) are the model's own. -/
def Obligations.InvariantHoldsAtReset : Prop :=
  State.reset.Inv ∧ ∀ p : Params, p.wf = true → (State.resetOf p).Inv

/-- R29, R33: every step keeps the invariant: lengths within their buffers, results within what they index, and the model's own:
legal parameters (log 3) and the memory canonical (log 2). -/
def Obligations.EveryStepKeepsTheInvariant : Prop :=
  ∀ s t : State, s.Inv → step s = .next t → t.Inv

/-- R148: after reset, VKIND = AMI says VOLT holds an AMI encoding. -/
def Obligations.ProvenanceHoldsAtReset : Prop :=
  ∀ p : Params, AmiDerived (State.resetOf p)

/-- R148: every step keeps it: while VKIND = AMI, VOLT[0 .. VOLT_LEN−1] is the AMI encoding of some non-empty bit string. -/
def Obligations.EveryStepKeepsProvenance : Prop :=
  ∀ s t : State, AmiDerived s → step s = .next t → AmiDerived t

/-- R33: a result register changes only in a step of its own command, or in a reset; whose step it is, the model's own
arbitration says (log 4). -/
def Obligations.ResultsChangeOnlyByTheirCommand : Prop :=
  ∀ s t : State, step s = .next t → (∀ during rest, s.env ≠ .reset during :: rest) →
    ((t.palStart ≠ s.palStart ∨ t.palLen ≠ s.palLen) →
      engineMoves s = true ∧ decode s.cmd = .ok .anaPal ∧ t.err = .ok)
    ∧ ((t.zrStart ≠ s.zrStart ∨ t.zrLen ≠ s.zrLen) →
      engineMoves s = true ∧ decode s.cmd = .ok .anaZrun ∧ t.err = .ok)

/-- R212, R213: unless a reset is asserted, a pending command is executed after at most as many host turns as the schedule holds
(the model's own, log 4): those turns leave the block as it is, the step after them is the engine's step on it, and that step
leaves BUSY = 0 or stops over an unwritten cell (log 1). -/
def Obligations.PendingCommandIsExecuted : Prop :=
  ∀ s : State, s.busy = true → (∀ d, EnvEvent.reset d ∉ s.env) →
    ∃ (k : Nat) (u : State), k ≤ s.schedule.length
      ∧ Host.Core.run Sys2Proof.core k s = .next u
      ∧ u = { s with env := u.env, schedule := u.schedule, observed := u.observed }
      ∧ engineMoves u = true
      ∧ Host.Core.run Sys2Proof.core (k + 1) s = engineStep { u with schedule := u.schedule.tail }
      ∧ match engineStep { u with schedule := u.schedule.tail } with
        | .next t => t.busy = false
        | .fault f => FaultNamesUnwritten f s
        | .refused _ => False

/-- R38, R50, R65: a step that the schedule gives the host while BUSY = 1 (log 4) answers its next transaction (from `env`,
log 6) as R38 says, leaves the block as it is, uses up one turn, and records the reply (log 7; a write's with data 0, log 8). -/
def Obligations.BusyStepRecordsTheReply : Prop :=
  (∀ (s : State) (a : BusAddr) (rest : List EnvEvent), s.busy = true → s.schedule.head? = some .host →
    s.env = .bus (.read a) :: rest →
    ∃ r, busRead a s = .ok r
      ∧ (a.toNat ∈ [0x0, 0x4, 0x8, 0xC, 0x14] → r.resp = .okay)
      ∧ (a.toNat ∉ [0x0, 0x4, 0x8, 0xC, 0x14] → r = { resp := .busErr, data := 0#32 })
      ∧ step s = .next { s with
          env := rest
          schedule := s.schedule.tail
          observed := { tx := .read a, reply := r } :: s.observed })
  ∧ ∀ (s : State) (a : BusAddr) (data : Word) (rest : List EnvEvent), s.busy = true →
      s.schedule.head? = some .host → s.env = .bus (.write a data) :: rest →
      step s = .next { s with
        env := rest
        schedule := s.schedule.tail
        observed := { tx := .write a data, reply := { resp := .busErr, data := 0#32 } } :: s.observed }
end

