-- ==== Sys2Proof/Laws/Memory.lean ====
section
/-! SUPPORT. The laws of the buffers: what a read after a write gives, and that every write keeps the canonical form. -/

namespace Sys2Proof.Machine

@[simp] theorem readCell_nil {α : Type} (k : Nat) : readCell ([] : Cells α) k = none := rfl

/-- Read after write: the cell written, and every other cell as before. -/
theorem readCell_writeCell {α : Type} (m : Cells α) (k j : Nat) (x : α) :
    readCell (writeCell m k x) j = if j = k then some x else readCell m j := by
  induction m with
  | nil =>
    by_cases h : j = k
    · simp [writeCell, readCell, h]
    · have hk : ¬k = j := fun e => h e.symm
      simp [writeCell, readCell, h, hk]
  | cons c rest ih =>
    obtain ⟨a, y⟩ := c
    unfold writeCell
    by_cases h1 : k < a
    · by_cases h : j = k
      · simp [h1, readCell, h]
      · have hk : ¬k = j := fun e => h e.symm
        simp [h1, readCell, h, hk]
    · by_cases h2 : k = a
      · subst h2
        by_cases h : j = k
        · simp [readCell, h]
        · have hk : ¬k = j := fun e => h e.symm
          simp [readCell, h, hk]
      · by_cases h3 : a = j
        · subst h3
          have hk : ¬a = k := fun e => h2 e.symm
          simp [h1, h2, readCell, hk]
        · simp [h1, h2, readCell, h3, ih]

/-- Read after a run of writes from `k` on. -/
theorem readCell_writeCells {α : Type} (xs : List α) (m : Cells α) (k j : Nat) :
    readCell (writeCells m k xs) j =
      if k ≤ j ∧ j < k + xs.length then xs[j - k]? else readCell m j := by
  induction xs generalizing m k with
  | nil =>
    simp [writeCells]
  | cons x xs ih =>
    rw [writeCells, ih, readCell_writeCell]
    by_cases h : j = k
    · subst h
      simp
    · by_cases h1 : k + 1 ≤ j ∧ j < k + 1 + xs.length
      · have h2 : k ≤ j ∧ j < k + (x :: xs).length := by simp only [List.length_cons]; omega
        obtain ⟨d, rfl⟩ : ∃ d, j = k + 1 + d := ⟨j - (k + 1), by omega⟩
        have e1 : k + 1 + d - (k + 1) = d := by omega
        have e2 : k + 1 + d - k = d + 1 := by omega
        simp only [h1, h2, and_self, if_true, e1, e2, List.getElem?_cons_succ]
      · have h2 : ¬(k ≤ j ∧ j < k + (x :: xs).length) := by simp only [List.length_cons]; omega
        simp only [h1, h2, h, if_false]

/-- Read after a run of writes from cell 0 on. -/
theorem readCell_writeCells_zero {α : Type} (m : Cells α) (xs : List α) (j : Nat) :
    readCell (writeCells m 0 xs) j = if j < xs.length then xs[j]? else readCell m j := by
  rw [readCell_writeCells]
  simp

theorem cellsWf_cons {α : Type} (cap a b : Nat) (x y : α) (rest : Cells α) :
    cellsWf cap ((a, x) :: (b, y) :: rest) = true ↔ a < b ∧ cellsWf cap ((b, y) :: rest) = true := by
  simp [cellsWf]

theorem cellsWf_tail {α : Type} {cap : Nat} {c : Nat × α} {rest : Cells α}
    (h : cellsWf cap (c :: rest) = true) : cellsWf cap rest = true := by
  obtain ⟨a, x⟩ := c
  match rest, h with
  | [], _ => rfl
  | (b, y) :: rest, h => exact ((cellsWf_cons cap a b x y rest).1 h).2

theorem cellsWf_head_lt {α : Type} {cap : Nat} {a : Nat} {x : α} {rest : Cells α}
    (h : cellsWf cap ((a, x) :: rest) = true) : a < cap := by
  induction rest generalizing a x with
  | nil => simpa [cellsWf] using h
  | cons c rest ih =>
    obtain ⟨b, y⟩ := c
    have h' := (cellsWf_cons cap a b x y rest).1 h
    exact Nat.lt_trans h'.1 (ih h'.2)

/-- Putting a cell before a canonical list whose entries are all later. -/
theorem cellsWf_push {α : Type} {cap a : Nat} {x : α} {m : Cells α} (ha : a < cap)
    (hm : cellsWf cap m = true) (hlt : ∀ c, m.head? = some c → a < c.1) :
    cellsWf cap ((a, x) :: m) = true := by
  match m, hm, hlt with
  | [], _, _ => simpa [cellsWf] using ha
  | (b, y) :: rest, hm, hlt => exact (cellsWf_cons cap a b x y rest).2 ⟨hlt (b, y) rfl, hm⟩

/-- The first entry after a write is the old first one or the new one. -/
theorem writeCell_head {α : Type} (m : Cells α) (k : Nat) (x : α) (c : Nat × α)
    (h : (writeCell m k x).head? = some c) : c.1 = k ∨ m.head? = some c := by
  match m with
  | [] =>
    simp [writeCell] at h
    exact .inl (by rw [← h])
  | (a, y) :: rest =>
    unfold writeCell at h
    split at h
    · exact .inl (by simp at h; rw [← h])
    · split at h
      · exact .inl (by simp at h; rw [← h])
      · exact .inr (by simpa using h)

/-- A write below the capacity keeps the canonical form. -/
theorem cellsWf_writeCell {α : Type} {cap k : Nat} (x : α) (hk : k < cap) :
    ∀ m : Cells α, cellsWf cap m = true → cellsWf cap (writeCell m k x) = true := by
  intro m
  induction m with
  | nil => intro _; simpa [writeCell, cellsWf] using hk
  | cons c rest ih =>
    obtain ⟨a, y⟩ := c
    intro h
    unfold writeCell
    split
    · exact cellsWf_push hk h (by intro c hc; simp at hc; rw [← hc]; assumption)
    · split
      · rename_i h1 h2
        subst h2
        match rest, h with
        | [], _ => simpa [cellsWf] using hk
        | (b, z) :: rest, h => exact (cellsWf_cons cap k b x z rest).2 ((cellsWf_cons cap k b y z rest).1 h)
      · rename_i h1 h2
        refine cellsWf_push (cellsWf_head_lt h) (ih (cellsWf_tail h)) ?_
        intro c hc
        rcases writeCell_head rest k x c hc with e | e
        · rw [e]; omega
        · match rest, e, h with
          | (b, z) :: rest, e, h =>
            have := ((cellsWf_cons cap a b y z rest).1 h).1
            simp at e
            rw [← e]
            exact this

/-- A run of writes below the capacity keeps the canonical form. -/
theorem cellsWf_writeCells {α : Type} {cap : Nat} (xs : List α) :
    ∀ (m : Cells α) (k : Nat), k + xs.length ≤ cap → cellsWf cap m = true →
      cellsWf cap (writeCells m k xs) = true := by
  induction xs with
  | nil => intro m k _ h; exact h
  | cons x xs ih =>
    intro m k hk h
    simp only [List.length_cons] at hk
    exact ih _ _ (by omega) (cellsWf_writeCell x (by omega) m h)

theorem memory_wf_iff (p : Params) (m : Memory) :
    m.wf p = true ↔
      cellsWf p.symCap m.sym = true ∧ cellsWf p.voltCap m.volt = true ∧ cellsWf p.sampCap m.samp = true := by
  simp [Memory.wf, and_assoc]

/-- Writing a run of SYM cells that fits keeps the memory canonical. -/
theorem memory_wf_sym {p : Params} {m : Memory} (h : m.wf p = true) (xs : List Byte) (k : Nat)
    (hk : k + xs.length ≤ p.symCap) : ({ m with sym := writeCells m.sym k xs } : Memory).wf p = true := by
  rw [memory_wf_iff] at h ⊢
  exact ⟨cellsWf_writeCells xs _ _ hk h.1, h.2⟩

/-- Writing a run of VOLT cells that fits keeps the memory canonical. -/
theorem memory_wf_volt {p : Params} {m : Memory} (h : m.wf p = true) (xs : List Trit) (k : Nat)
    (hk : k + xs.length ≤ p.voltCap) : ({ m with volt := writeCells m.volt k xs } : Memory).wf p = true := by
  rw [memory_wf_iff] at h ⊢
  exact ⟨h.1, cellsWf_writeCells xs _ _ hk h.2.1, h.2.2⟩

/-- Writing one SAMP cell that exists keeps the memory canonical. -/
theorem memory_wf_samp {p : Params} {m : Memory} (h : m.wf p = true) (x : Word) (k : Nat)
    (hk : k < p.sampCap) : ({ m with samp := writeCell m.samp k x } : Memory).wf p = true := by
  rw [memory_wf_iff] at h ⊢
  exact ⟨h.1, h.2.1, cellsWf_writeCell x hk _ h.2.2⟩

/-- The memory right after reset is canonical, whatever the parameters. -/
theorem memory_wf_reset (p : Params) : (State.resetOf p).mem.wf p = true := by
  simp [State.resetOf, Memory.wf, cellsWf]

/-- What an address that reaches a cell says: the cell is below its buffer's capacity, and which address it has (R52, R53). -/
theorem decodeAddr_cell {p : Params} {a : BusAddr} {t : Target} (h : decodeAddr p a = some t) :
    match t with
    | .reg r => regAt a.toNat = some r
    | .sym k => k < p.symCap ∧ k = (a.toNat - 0x04000) / 4
    | .volt k => k < p.voltCap ∧ k = (a.toNat - 0x08000) / 4
    | .samp k => k < p.sampCap ∧ k = (a.toNat - 0x10000) / 4 := by
  unfold decodeAddr at h
  dsimp only at h
  split at h
  · cases h
  · split at h
    · split at h
      · rename_i r hr
        cases h
        exact hr
      · cases h
    · split at h
      · split at h
        · rename_i hc
          cases h
          exact ⟨hc, rfl⟩
        · cases h
      · split at h
        · split at h
          · rename_i hc
            cases h
            exact ⟨hc, rfl⟩
          · cases h
        · split at h
          · split at h
            · rename_i hc
              cases h
              exact ⟨hc, rfl⟩
            · cases h
          · cases h

/-- A host write keeps the memory canonical: it reaches only cells below the capacity. -/
theorem memory_wf_busWrite {s : State} (h : s.mem.wf s.params = true) (a : BusAddr) (d : Word) :
    (busWrite a d s).2.mem.wf s.params = true := by
  unfold busWrite
  split
  · exact h
  · rename_i t ht
    split
    · exact h
    · split
      · rename_i s' hs'
        cases t with
        | reg r =>
          cases r <;> simp [writeTarget, writeReg, accept] at hs' <;> (try rcases hs' with ⟨_, rfl⟩) <;> exact h
        | sym k =>
          simp only [writeTarget, Option.some.injEq] at hs'
          subst hs'
          have hk : k < s.params.symCap := (decodeAddr_cell ht).1
          exact memory_wf_sym h [_] k (by simpa using hk)
        | volt k =>
          have hk : k < s.params.voltCap := (decodeAddr_cell ht).1
          simp only [writeTarget] at hs'
          split at hs'
          · simp only [Option.some.injEq] at hs'
            subst hs'
            exact memory_wf_volt h [_] k (by simpa using hk)
          · cases hs'
        | samp k =>
          simp only [writeTarget, Option.some.injEq] at hs'
          subst hs'
          have hk : k < s.params.sampCap := (decodeAddr_cell ht).1
          exact memory_wf_samp h _ k hk
      · exact h

/-- A run of cells is read exactly where each of them is written. -/
theorem readCells_eq_ok {α : Type} (m : Cells α) (n k : Nat) (xs : List α) :
    readCells m k n = .ok xs ↔ xs.length = n ∧ ∀ t, t < n → readCell m (k + t) = xs[t]? := by
  induction n generalizing k xs with
  | zero => simp [readCells, eq_comm]
  | succ n ih =>
    rw [readCells]
    cases hx : readCell m k with
    | none =>
      simp only [reduceCtorEq, false_iff]
      rintro ⟨hl, h⟩
      have := h 0 (by omega)
      rw [Nat.add_zero, hx] at this
      have h0 : 0 < xs.length := by omega
      rw [List.getElem?_eq_getElem h0] at this
      cases this
    | some x =>
      cases hr : readCells m (k + 1) n with
      | error j =>
        simp only [reduceCtorEq, false_iff]
        rintro ⟨hl, h⟩
        have hih := (ih (k + 1) xs.tail).2 ⟨by simp [hl], fun t ht => by
          have := h (t + 1) (by omega)
          rw [show k + 1 + t = k + (t + 1) by omega, this]
          simp⟩
        rw [hr] at hih
        cases hih
      | ok ys =>
        have hys := (ih (k + 1) ys).1 hr
        constructor
        · intro e
          cases e
          refine ⟨by simp [hys.1], ?_⟩
          intro t ht
          cases t with
          | zero => simpa using hx
          | succ t =>
            rw [show k + (t + 1) = k + 1 + t by omega, hys.2 t (by omega)]
            simp
        · rintro ⟨hl, h⟩
          match xs, hl, h with
          | z :: zs, hl, h =>
            have h0 := h 0 (by omega)
            simp only [Nat.add_zero, List.getElem?_cons_zero] at h0
            rw [hx] at h0
            have hzs := (ih (k + 1) zs).2 ⟨by simpa using hl, fun t ht => by
              have := h (t + 1) (by omega)
              rw [show k + 1 + t = k + (t + 1) by omega, this]
              simp⟩
            rw [hr] at hzs
            cases h0
            cases hzs
            rfl

/-- A run of cells is not read only where one of them is unwritten. -/
theorem readCells_eq_error {α : Type} {m : Cells α} {n k j : Nat}
    (h : readCells m k n = .error j) : readCell m j = none ∧ k ≤ j ∧ j < k + n := by
  induction n generalizing k with
  | zero => cases h
  | succ n ih =>
    rw [readCells] at h
    cases hx : readCell m k with
    | none =>
      rw [hx] at h
      cases h
      exact ⟨hx, by omega, by omega⟩
    | some x =>
      rw [hx] at h
      cases hr : readCells m (k + 1) n with
      | error i =>
        simp only [hr] at h
        cases h
        have := ih hr
        exact ⟨this.1, by omega, by omega⟩
      | ok ys =>
        simp only [hr] at h
        cases h

end Sys2Proof.Machine
end

