-- ==== Sys2Proof/Laws/State.lean ====
section
/-! SUPPORT. One lemma for each field of the state and each named update of it, true by rfl. -/

namespace Sys2Proof.Machine

@[simp] theorem complete_params (s : State) : (complete s).params = s.params := rfl
@[simp] theorem complete_cmd (s : State) : (complete s).cmd = s.cmd := rfl
@[simp] theorem complete_busy (s : State) : (complete s).busy = false := rfl
@[simp] theorem complete_err (s : State) : (complete s).err = .ok := rfl
@[simp] theorem complete_vkind (s : State) : (complete s).vkind = s.vkind := rfl
@[simp] theorem complete_sampLen (s : State) : (complete s).sampLen = s.sampLen := rfl
@[simp] theorem complete_symLen (s : State) : (complete s).symLen = s.symLen := rfl
@[simp] theorem complete_voltLen (s : State) : (complete s).voltLen = s.voltLen := rfl
@[simp] theorem complete_palStart (s : State) : (complete s).palStart = s.palStart := rfl
@[simp] theorem complete_palLen (s : State) : (complete s).palLen = s.palLen := rfl
@[simp] theorem complete_zrStart (s : State) : (complete s).zrStart = s.zrStart := rfl
@[simp] theorem complete_zrLen (s : State) : (complete s).zrLen = s.zrLen := rfl
@[simp] theorem complete_mem (s : State) : (complete s).mem = s.mem := rfl
@[simp] theorem complete_env (s : State) : (complete s).env = s.env := rfl
@[simp] theorem complete_schedule (s : State) : (complete s).schedule = s.schedule := rfl
@[simp] theorem complete_observed (s : State) : (complete s).observed = s.observed := rfl
@[simp] theorem complete_draws (s : State) : (complete s).draws = s.draws := rfl

@[simp] theorem raiseCmdError_params (e : CmdError) (s : State) : (raiseCmdError e s).params = s.params := rfl
@[simp] theorem raiseCmdError_cmd (e : CmdError) (s : State) : (raiseCmdError e s).cmd = s.cmd := rfl
@[simp] theorem raiseCmdError_busy (e : CmdError) (s : State) : (raiseCmdError e s).busy = false := rfl
@[simp] theorem raiseCmdError_err (e : CmdError) (s : State) : (raiseCmdError e s).err = e.code := rfl
@[simp] theorem raiseCmdError_vkind (e : CmdError) (s : State) : (raiseCmdError e s).vkind = s.vkind := rfl
@[simp] theorem raiseCmdError_sampLen (e : CmdError) (s : State) : (raiseCmdError e s).sampLen = s.sampLen := rfl
@[simp] theorem raiseCmdError_symLen (e : CmdError) (s : State) : (raiseCmdError e s).symLen = s.symLen := rfl
@[simp] theorem raiseCmdError_voltLen (e : CmdError) (s : State) : (raiseCmdError e s).voltLen = s.voltLen := rfl
@[simp] theorem raiseCmdError_palStart (e : CmdError) (s : State) : (raiseCmdError e s).palStart = s.palStart := rfl
@[simp] theorem raiseCmdError_palLen (e : CmdError) (s : State) : (raiseCmdError e s).palLen = s.palLen := rfl
@[simp] theorem raiseCmdError_zrStart (e : CmdError) (s : State) : (raiseCmdError e s).zrStart = s.zrStart := rfl
@[simp] theorem raiseCmdError_zrLen (e : CmdError) (s : State) : (raiseCmdError e s).zrLen = s.zrLen := rfl
@[simp] theorem raiseCmdError_mem (e : CmdError) (s : State) : (raiseCmdError e s).mem = s.mem := rfl
@[simp] theorem raiseCmdError_env (e : CmdError) (s : State) : (raiseCmdError e s).env = s.env := rfl
@[simp] theorem raiseCmdError_schedule (e : CmdError) (s : State) : (raiseCmdError e s).schedule = s.schedule := rfl
@[simp] theorem raiseCmdError_observed (e : CmdError) (s : State) : (raiseCmdError e s).observed = s.observed := rfl
@[simp] theorem raiseCmdError_draws (e : CmdError) (s : State) : (raiseCmdError e s).draws = s.draws := rfl

@[simp] theorem accept_params (d : Word) (s : State) : (accept d s).params = s.params := rfl
@[simp] theorem accept_cmd (d : Word) (s : State) : (accept d s).cmd = d := rfl
@[simp] theorem accept_busy (d : Word) (s : State) : (accept d s).busy = true := rfl
@[simp] theorem accept_err (d : Word) (s : State) : (accept d s).err = .ok := rfl
@[simp] theorem accept_vkind (d : Word) (s : State) : (accept d s).vkind = s.vkind := rfl
@[simp] theorem accept_sampLen (d : Word) (s : State) : (accept d s).sampLen = s.sampLen := rfl
@[simp] theorem accept_symLen (d : Word) (s : State) : (accept d s).symLen = s.symLen := rfl
@[simp] theorem accept_voltLen (d : Word) (s : State) : (accept d s).voltLen = s.voltLen := rfl
@[simp] theorem accept_palStart (d : Word) (s : State) : (accept d s).palStart = s.palStart := rfl
@[simp] theorem accept_palLen (d : Word) (s : State) : (accept d s).palLen = s.palLen := rfl
@[simp] theorem accept_zrStart (d : Word) (s : State) : (accept d s).zrStart = s.zrStart := rfl
@[simp] theorem accept_zrLen (d : Word) (s : State) : (accept d s).zrLen = s.zrLen := rfl
@[simp] theorem accept_mem (d : Word) (s : State) : (accept d s).mem = s.mem := rfl
@[simp] theorem accept_env (d : Word) (s : State) : (accept d s).env = s.env := rfl
@[simp] theorem accept_schedule (d : Word) (s : State) : (accept d s).schedule = s.schedule := rfl
@[simp] theorem accept_observed (d : Word) (s : State) : (accept d s).observed = s.observed := rfl
@[simp] theorem accept_draws (d : Word) (s : State) : (accept d s).draws = s.draws := rfl

@[simp] theorem takeTurn_params (s : State) : (takeTurn s).params = s.params := rfl
@[simp] theorem takeTurn_cmd (s : State) : (takeTurn s).cmd = s.cmd := rfl
@[simp] theorem takeTurn_busy (s : State) : (takeTurn s).busy = s.busy := rfl
@[simp] theorem takeTurn_err (s : State) : (takeTurn s).err = s.err := rfl
@[simp] theorem takeTurn_vkind (s : State) : (takeTurn s).vkind = s.vkind := rfl
@[simp] theorem takeTurn_sampLen (s : State) : (takeTurn s).sampLen = s.sampLen := rfl
@[simp] theorem takeTurn_symLen (s : State) : (takeTurn s).symLen = s.symLen := rfl
@[simp] theorem takeTurn_voltLen (s : State) : (takeTurn s).voltLen = s.voltLen := rfl
@[simp] theorem takeTurn_palStart (s : State) : (takeTurn s).palStart = s.palStart := rfl
@[simp] theorem takeTurn_palLen (s : State) : (takeTurn s).palLen = s.palLen := rfl
@[simp] theorem takeTurn_zrStart (s : State) : (takeTurn s).zrStart = s.zrStart := rfl
@[simp] theorem takeTurn_zrLen (s : State) : (takeTurn s).zrLen = s.zrLen := rfl
@[simp] theorem takeTurn_mem (s : State) : (takeTurn s).mem = s.mem := rfl
@[simp] theorem takeTurn_env (s : State) : (takeTurn s).env = s.env := rfl
@[simp] theorem takeTurn_schedule (s : State) : (takeTurn s).schedule = s.schedule.tail := rfl
@[simp] theorem takeTurn_observed (s : State) : (takeTurn s).observed = s.observed := rfl
@[simp] theorem takeTurn_draws (s : State) : (takeTurn s).draws = s.draws := rfl

@[simp] theorem storeSymbols_params (c : List Byte) (n : Nat) (s : State) : (storeSymbols c n s).params = s.params := rfl
@[simp] theorem storeSymbols_cmd (c : List Byte) (n : Nat) (s : State) : (storeSymbols c n s).cmd = s.cmd := rfl
@[simp] theorem storeSymbols_busy (c : List Byte) (n : Nat) (s : State) : (storeSymbols c n s).busy = s.busy := rfl
@[simp] theorem storeSymbols_err (c : List Byte) (n : Nat) (s : State) : (storeSymbols c n s).err = s.err := rfl
@[simp] theorem storeSymbols_vkind (c : List Byte) (n : Nat) (s : State) : (storeSymbols c n s).vkind = s.vkind := rfl
@[simp] theorem storeSymbols_sampLen (c : List Byte) (n : Nat) (s : State) : (storeSymbols c n s).sampLen = s.sampLen := rfl
@[simp] theorem storeSymbols_symLen (c : List Byte) (n : Nat) (s : State) : (storeSymbols c n s).symLen = n := rfl
@[simp] theorem storeSymbols_voltLen (c : List Byte) (n : Nat) (s : State) : (storeSymbols c n s).voltLen = s.voltLen := rfl
@[simp] theorem storeSymbols_palStart (c : List Byte) (n : Nat) (s : State) : (storeSymbols c n s).palStart = s.palStart := rfl
@[simp] theorem storeSymbols_palLen (c : List Byte) (n : Nat) (s : State) : (storeSymbols c n s).palLen = s.palLen := rfl
@[simp] theorem storeSymbols_zrStart (c : List Byte) (n : Nat) (s : State) : (storeSymbols c n s).zrStart = s.zrStart := rfl
@[simp] theorem storeSymbols_zrLen (c : List Byte) (n : Nat) (s : State) : (storeSymbols c n s).zrLen = s.zrLen := rfl
@[simp] theorem storeSymbols_mem (c : List Byte) (n : Nat) (s : State) : (storeSymbols c n s).mem = { s.mem with sym := writeCells s.mem.sym 0 c } := rfl
@[simp] theorem storeSymbols_env (c : List Byte) (n : Nat) (s : State) : (storeSymbols c n s).env = s.env := rfl
@[simp] theorem storeSymbols_schedule (c : List Byte) (n : Nat) (s : State) : (storeSymbols c n s).schedule = s.schedule := rfl
@[simp] theorem storeSymbols_observed (c : List Byte) (n : Nat) (s : State) : (storeSymbols c n s).observed = s.observed := rfl
@[simp] theorem storeSymbols_draws (c : List Byte) (n : Nat) (s : State) : (storeSymbols c n s).draws = s.draws := rfl

@[simp] theorem storeVoltages_params (k : VKind) (v : List Trit) (s : State) : (storeVoltages k v s).params = s.params := rfl
@[simp] theorem storeVoltages_cmd (k : VKind) (v : List Trit) (s : State) : (storeVoltages k v s).cmd = s.cmd := rfl
@[simp] theorem storeVoltages_busy (k : VKind) (v : List Trit) (s : State) : (storeVoltages k v s).busy = s.busy := rfl
@[simp] theorem storeVoltages_err (k : VKind) (v : List Trit) (s : State) : (storeVoltages k v s).err = s.err := rfl
@[simp] theorem storeVoltages_vkind (k : VKind) (v : List Trit) (s : State) : (storeVoltages k v s).vkind = k := rfl
@[simp] theorem storeVoltages_sampLen (k : VKind) (v : List Trit) (s : State) : (storeVoltages k v s).sampLen = s.sampLen := rfl
@[simp] theorem storeVoltages_symLen (k : VKind) (v : List Trit) (s : State) : (storeVoltages k v s).symLen = s.symLen := rfl
@[simp] theorem storeVoltages_voltLen (k : VKind) (v : List Trit) (s : State) : (storeVoltages k v s).voltLen = v.length := rfl
@[simp] theorem storeVoltages_palStart (k : VKind) (v : List Trit) (s : State) : (storeVoltages k v s).palStart = s.palStart := rfl
@[simp] theorem storeVoltages_palLen (k : VKind) (v : List Trit) (s : State) : (storeVoltages k v s).palLen = s.palLen := rfl
@[simp] theorem storeVoltages_zrStart (k : VKind) (v : List Trit) (s : State) : (storeVoltages k v s).zrStart = s.zrStart := rfl
@[simp] theorem storeVoltages_zrLen (k : VKind) (v : List Trit) (s : State) : (storeVoltages k v s).zrLen = s.zrLen := rfl
@[simp] theorem storeVoltages_mem (k : VKind) (v : List Trit) (s : State) : (storeVoltages k v s).mem = { s.mem with volt := writeCells s.mem.volt 0 v } := rfl
@[simp] theorem storeVoltages_env (k : VKind) (v : List Trit) (s : State) : (storeVoltages k v s).env = s.env := rfl
@[simp] theorem storeVoltages_schedule (k : VKind) (v : List Trit) (s : State) : (storeVoltages k v s).schedule = s.schedule := rfl
@[simp] theorem storeVoltages_observed (k : VKind) (v : List Trit) (s : State) : (storeVoltages k v s).observed = s.observed := rfl
@[simp] theorem storeVoltages_draws (k : VKind) (v : List Trit) (s : State) : (storeVoltages k v s).draws = s.draws := rfl

@[simp] theorem storeScrambled_params (k : VKind) (v : List Trit) (s : State) : (storeScrambled k v s).params = s.params := rfl
@[simp] theorem storeScrambled_cmd (k : VKind) (v : List Trit) (s : State) : (storeScrambled k v s).cmd = s.cmd := rfl
@[simp] theorem storeScrambled_busy (k : VKind) (v : List Trit) (s : State) : (storeScrambled k v s).busy = s.busy := rfl
@[simp] theorem storeScrambled_err (k : VKind) (v : List Trit) (s : State) : (storeScrambled k v s).err = s.err := rfl
@[simp] theorem storeScrambled_vkind (k : VKind) (v : List Trit) (s : State) : (storeScrambled k v s).vkind = k := rfl
@[simp] theorem storeScrambled_sampLen (k : VKind) (v : List Trit) (s : State) : (storeScrambled k v s).sampLen = s.sampLen := rfl
@[simp] theorem storeScrambled_symLen (k : VKind) (v : List Trit) (s : State) : (storeScrambled k v s).symLen = s.symLen := rfl
@[simp] theorem storeScrambled_voltLen (k : VKind) (v : List Trit) (s : State) : (storeScrambled k v s).voltLen = s.voltLen := rfl
@[simp] theorem storeScrambled_palStart (k : VKind) (v : List Trit) (s : State) : (storeScrambled k v s).palStart = s.palStart := rfl
@[simp] theorem storeScrambled_palLen (k : VKind) (v : List Trit) (s : State) : (storeScrambled k v s).palLen = s.palLen := rfl
@[simp] theorem storeScrambled_zrStart (k : VKind) (v : List Trit) (s : State) : (storeScrambled k v s).zrStart = s.zrStart := rfl
@[simp] theorem storeScrambled_zrLen (k : VKind) (v : List Trit) (s : State) : (storeScrambled k v s).zrLen = s.zrLen := rfl
@[simp] theorem storeScrambled_mem (k : VKind) (v : List Trit) (s : State) : (storeScrambled k v s).mem = { s.mem with volt := writeCells s.mem.volt 0 v } := rfl
@[simp] theorem storeScrambled_env (k : VKind) (v : List Trit) (s : State) : (storeScrambled k v s).env = s.env := rfl
@[simp] theorem storeScrambled_schedule (k : VKind) (v : List Trit) (s : State) : (storeScrambled k v s).schedule = s.schedule := rfl
@[simp] theorem storeScrambled_observed (k : VKind) (v : List Trit) (s : State) : (storeScrambled k v s).observed = s.observed := rfl
@[simp] theorem storeScrambled_draws (k : VKind) (v : List Trit) (s : State) : (storeScrambled k v s).draws = s.draws := rfl

@[simp] theorem storePalindrome_params (r : Nat × Nat) (s : State) : (storePalindrome r s).params = s.params := rfl
@[simp] theorem storePalindrome_cmd (r : Nat × Nat) (s : State) : (storePalindrome r s).cmd = s.cmd := rfl
@[simp] theorem storePalindrome_busy (r : Nat × Nat) (s : State) : (storePalindrome r s).busy = s.busy := rfl
@[simp] theorem storePalindrome_err (r : Nat × Nat) (s : State) : (storePalindrome r s).err = s.err := rfl
@[simp] theorem storePalindrome_vkind (r : Nat × Nat) (s : State) : (storePalindrome r s).vkind = s.vkind := rfl
@[simp] theorem storePalindrome_sampLen (r : Nat × Nat) (s : State) : (storePalindrome r s).sampLen = s.sampLen := rfl
@[simp] theorem storePalindrome_symLen (r : Nat × Nat) (s : State) : (storePalindrome r s).symLen = s.symLen := rfl
@[simp] theorem storePalindrome_voltLen (r : Nat × Nat) (s : State) : (storePalindrome r s).voltLen = s.voltLen := rfl
@[simp] theorem storePalindrome_palStart (r : Nat × Nat) (s : State) : (storePalindrome r s).palStart = r.1 := rfl
@[simp] theorem storePalindrome_palLen (r : Nat × Nat) (s : State) : (storePalindrome r s).palLen = r.2 := rfl
@[simp] theorem storePalindrome_zrStart (r : Nat × Nat) (s : State) : (storePalindrome r s).zrStart = s.zrStart := rfl
@[simp] theorem storePalindrome_zrLen (r : Nat × Nat) (s : State) : (storePalindrome r s).zrLen = s.zrLen := rfl
@[simp] theorem storePalindrome_mem (r : Nat × Nat) (s : State) : (storePalindrome r s).mem = s.mem := rfl
@[simp] theorem storePalindrome_env (r : Nat × Nat) (s : State) : (storePalindrome r s).env = s.env := rfl
@[simp] theorem storePalindrome_schedule (r : Nat × Nat) (s : State) : (storePalindrome r s).schedule = s.schedule := rfl
@[simp] theorem storePalindrome_observed (r : Nat × Nat) (s : State) : (storePalindrome r s).observed = s.observed := rfl
@[simp] theorem storePalindrome_draws (r : Nat × Nat) (s : State) : (storePalindrome r s).draws = s.draws := rfl

@[simp] theorem storeZeroRun_params (r : Nat × Nat) (s : State) : (storeZeroRun r s).params = s.params := rfl
@[simp] theorem storeZeroRun_cmd (r : Nat × Nat) (s : State) : (storeZeroRun r s).cmd = s.cmd := rfl
@[simp] theorem storeZeroRun_busy (r : Nat × Nat) (s : State) : (storeZeroRun r s).busy = s.busy := rfl
@[simp] theorem storeZeroRun_err (r : Nat × Nat) (s : State) : (storeZeroRun r s).err = s.err := rfl
@[simp] theorem storeZeroRun_vkind (r : Nat × Nat) (s : State) : (storeZeroRun r s).vkind = s.vkind := rfl
@[simp] theorem storeZeroRun_sampLen (r : Nat × Nat) (s : State) : (storeZeroRun r s).sampLen = s.sampLen := rfl
@[simp] theorem storeZeroRun_symLen (r : Nat × Nat) (s : State) : (storeZeroRun r s).symLen = s.symLen := rfl
@[simp] theorem storeZeroRun_voltLen (r : Nat × Nat) (s : State) : (storeZeroRun r s).voltLen = s.voltLen := rfl
@[simp] theorem storeZeroRun_palStart (r : Nat × Nat) (s : State) : (storeZeroRun r s).palStart = s.palStart := rfl
@[simp] theorem storeZeroRun_palLen (r : Nat × Nat) (s : State) : (storeZeroRun r s).palLen = s.palLen := rfl
@[simp] theorem storeZeroRun_zrStart (r : Nat × Nat) (s : State) : (storeZeroRun r s).zrStart = r.1 := rfl
@[simp] theorem storeZeroRun_zrLen (r : Nat × Nat) (s : State) : (storeZeroRun r s).zrLen = r.2 := rfl
@[simp] theorem storeZeroRun_mem (r : Nat × Nat) (s : State) : (storeZeroRun r s).mem = s.mem := rfl
@[simp] theorem storeZeroRun_env (r : Nat × Nat) (s : State) : (storeZeroRun r s).env = s.env := rfl
@[simp] theorem storeZeroRun_schedule (r : Nat × Nat) (s : State) : (storeZeroRun r s).schedule = s.schedule := rfl
@[simp] theorem storeZeroRun_observed (r : Nat × Nat) (s : State) : (storeZeroRun r s).observed = s.observed := rfl
@[simp] theorem storeZeroRun_draws (r : Nat × Nat) (s : State) : (storeZeroRun r s).draws = s.draws := rfl

@[simp] theorem writeSym_params (k : Nat) (d : Word) (s : State) : (writeSym k d s).params = s.params := rfl
@[simp] theorem writeSym_cmd (k : Nat) (d : Word) (s : State) : (writeSym k d s).cmd = s.cmd := rfl
@[simp] theorem writeSym_busy (k : Nat) (d : Word) (s : State) : (writeSym k d s).busy = s.busy := rfl
@[simp] theorem writeSym_err (k : Nat) (d : Word) (s : State) : (writeSym k d s).err = s.err := rfl
@[simp] theorem writeSym_vkind (k : Nat) (d : Word) (s : State) : (writeSym k d s).vkind = s.vkind := rfl
@[simp] theorem writeSym_sampLen (k : Nat) (d : Word) (s : State) : (writeSym k d s).sampLen = s.sampLen := rfl
@[simp] theorem writeSym_symLen (k : Nat) (d : Word) (s : State) : (writeSym k d s).symLen = s.symLen := rfl
@[simp] theorem writeSym_voltLen (k : Nat) (d : Word) (s : State) : (writeSym k d s).voltLen = s.voltLen := rfl
@[simp] theorem writeSym_palStart (k : Nat) (d : Word) (s : State) : (writeSym k d s).palStart = s.palStart := rfl
@[simp] theorem writeSym_palLen (k : Nat) (d : Word) (s : State) : (writeSym k d s).palLen = s.palLen := rfl
@[simp] theorem writeSym_zrStart (k : Nat) (d : Word) (s : State) : (writeSym k d s).zrStart = s.zrStart := rfl
@[simp] theorem writeSym_zrLen (k : Nat) (d : Word) (s : State) : (writeSym k d s).zrLen = s.zrLen := rfl
@[simp] theorem writeSym_mem (k : Nat) (d : Word) (s : State) : (writeSym k d s).mem = { s.mem with sym := writeCell s.mem.sym k (d.extractLsb' 0 8) } := rfl
@[simp] theorem writeSym_env (k : Nat) (d : Word) (s : State) : (writeSym k d s).env = s.env := rfl
@[simp] theorem writeSym_schedule (k : Nat) (d : Word) (s : State) : (writeSym k d s).schedule = s.schedule := rfl
@[simp] theorem writeSym_observed (k : Nat) (d : Word) (s : State) : (writeSym k d s).observed = s.observed := rfl
@[simp] theorem writeSym_draws (k : Nat) (d : Word) (s : State) : (writeSym k d s).draws = s.draws := rfl

@[simp] theorem writeVolt_params (k : Nat) (t : Trit) (s : State) : (writeVolt k t s).params = s.params := rfl
@[simp] theorem writeVolt_cmd (k : Nat) (t : Trit) (s : State) : (writeVolt k t s).cmd = s.cmd := rfl
@[simp] theorem writeVolt_busy (k : Nat) (t : Trit) (s : State) : (writeVolt k t s).busy = s.busy := rfl
@[simp] theorem writeVolt_err (k : Nat) (t : Trit) (s : State) : (writeVolt k t s).err = s.err := rfl
@[simp] theorem writeVolt_vkind (k : Nat) (t : Trit) (s : State) : (writeVolt k t s).vkind = .host := rfl
@[simp] theorem writeVolt_sampLen (k : Nat) (t : Trit) (s : State) : (writeVolt k t s).sampLen = s.sampLen := rfl
@[simp] theorem writeVolt_symLen (k : Nat) (t : Trit) (s : State) : (writeVolt k t s).symLen = s.symLen := rfl
@[simp] theorem writeVolt_voltLen (k : Nat) (t : Trit) (s : State) : (writeVolt k t s).voltLen = s.voltLen := rfl
@[simp] theorem writeVolt_palStart (k : Nat) (t : Trit) (s : State) : (writeVolt k t s).palStart = s.palStart := rfl
@[simp] theorem writeVolt_palLen (k : Nat) (t : Trit) (s : State) : (writeVolt k t s).palLen = s.palLen := rfl
@[simp] theorem writeVolt_zrStart (k : Nat) (t : Trit) (s : State) : (writeVolt k t s).zrStart = s.zrStart := rfl
@[simp] theorem writeVolt_zrLen (k : Nat) (t : Trit) (s : State) : (writeVolt k t s).zrLen = s.zrLen := rfl
@[simp] theorem writeVolt_mem (k : Nat) (t : Trit) (s : State) : (writeVolt k t s).mem = { s.mem with volt := writeCell s.mem.volt k t } := rfl
@[simp] theorem writeVolt_env (k : Nat) (t : Trit) (s : State) : (writeVolt k t s).env = s.env := rfl
@[simp] theorem writeVolt_schedule (k : Nat) (t : Trit) (s : State) : (writeVolt k t s).schedule = s.schedule := rfl
@[simp] theorem writeVolt_observed (k : Nat) (t : Trit) (s : State) : (writeVolt k t s).observed = s.observed := rfl
@[simp] theorem writeVolt_draws (k : Nat) (t : Trit) (s : State) : (writeVolt k t s).draws = s.draws := rfl

@[simp] theorem writeSamp_params (k : Nat) (d : Word) (s : State) : (writeSamp k d s).params = s.params := rfl
@[simp] theorem writeSamp_cmd (k : Nat) (d : Word) (s : State) : (writeSamp k d s).cmd = s.cmd := rfl
@[simp] theorem writeSamp_busy (k : Nat) (d : Word) (s : State) : (writeSamp k d s).busy = s.busy := rfl
@[simp] theorem writeSamp_err (k : Nat) (d : Word) (s : State) : (writeSamp k d s).err = s.err := rfl
@[simp] theorem writeSamp_vkind (k : Nat) (d : Word) (s : State) : (writeSamp k d s).vkind = s.vkind := rfl
@[simp] theorem writeSamp_sampLen (k : Nat) (d : Word) (s : State) : (writeSamp k d s).sampLen = s.sampLen := rfl
@[simp] theorem writeSamp_symLen (k : Nat) (d : Word) (s : State) : (writeSamp k d s).symLen = s.symLen := rfl
@[simp] theorem writeSamp_voltLen (k : Nat) (d : Word) (s : State) : (writeSamp k d s).voltLen = s.voltLen := rfl
@[simp] theorem writeSamp_palStart (k : Nat) (d : Word) (s : State) : (writeSamp k d s).palStart = s.palStart := rfl
@[simp] theorem writeSamp_palLen (k : Nat) (d : Word) (s : State) : (writeSamp k d s).palLen = s.palLen := rfl
@[simp] theorem writeSamp_zrStart (k : Nat) (d : Word) (s : State) : (writeSamp k d s).zrStart = s.zrStart := rfl
@[simp] theorem writeSamp_zrLen (k : Nat) (d : Word) (s : State) : (writeSamp k d s).zrLen = s.zrLen := rfl
@[simp] theorem writeSamp_mem (k : Nat) (d : Word) (s : State) : (writeSamp k d s).mem = { s.mem with samp := writeCell s.mem.samp k d } := rfl
@[simp] theorem writeSamp_env (k : Nat) (d : Word) (s : State) : (writeSamp k d s).env = s.env := rfl
@[simp] theorem writeSamp_schedule (k : Nat) (d : Word) (s : State) : (writeSamp k d s).schedule = s.schedule := rfl
@[simp] theorem writeSamp_observed (k : Nat) (d : Word) (s : State) : (writeSamp k d s).observed = s.observed := rfl
@[simp] theorem writeSamp_draws (k : Nat) (d : Word) (s : State) : (writeSamp k d s).draws = s.draws := rfl

@[simp] theorem observe_params (tx : Transaction) (r : Reply) (s : State) : (observe tx r s).params = s.params := rfl
@[simp] theorem observe_cmd (tx : Transaction) (r : Reply) (s : State) : (observe tx r s).cmd = s.cmd := rfl
@[simp] theorem observe_busy (tx : Transaction) (r : Reply) (s : State) : (observe tx r s).busy = s.busy := rfl
@[simp] theorem observe_err (tx : Transaction) (r : Reply) (s : State) : (observe tx r s).err = s.err := rfl
@[simp] theorem observe_vkind (tx : Transaction) (r : Reply) (s : State) : (observe tx r s).vkind = s.vkind := rfl
@[simp] theorem observe_sampLen (tx : Transaction) (r : Reply) (s : State) : (observe tx r s).sampLen = s.sampLen := rfl
@[simp] theorem observe_symLen (tx : Transaction) (r : Reply) (s : State) : (observe tx r s).symLen = s.symLen := rfl
@[simp] theorem observe_voltLen (tx : Transaction) (r : Reply) (s : State) : (observe tx r s).voltLen = s.voltLen := rfl
@[simp] theorem observe_palStart (tx : Transaction) (r : Reply) (s : State) : (observe tx r s).palStart = s.palStart := rfl
@[simp] theorem observe_palLen (tx : Transaction) (r : Reply) (s : State) : (observe tx r s).palLen = s.palLen := rfl
@[simp] theorem observe_zrStart (tx : Transaction) (r : Reply) (s : State) : (observe tx r s).zrStart = s.zrStart := rfl
@[simp] theorem observe_zrLen (tx : Transaction) (r : Reply) (s : State) : (observe tx r s).zrLen = s.zrLen := rfl
@[simp] theorem observe_mem (tx : Transaction) (r : Reply) (s : State) : (observe tx r s).mem = s.mem := rfl
@[simp] theorem observe_env (tx : Transaction) (r : Reply) (s : State) : (observe tx r s).env = s.env := rfl
@[simp] theorem observe_schedule (tx : Transaction) (r : Reply) (s : State) : (observe tx r s).schedule = s.schedule := rfl
@[simp] theorem observe_observed (tx : Transaction) (r : Reply) (s : State) : (observe tx r s).observed = { tx := tx, reply := r } :: s.observed := rfl
@[simp] theorem observe_draws (tx : Transaction) (r : Reply) (s : State) : (observe tx r s).draws = s.draws := rfl

@[simp] theorem resetBlock_params (s : State) : (resetBlock s).params = s.params := rfl
@[simp] theorem resetBlock_cmd (s : State) : (resetBlock s).cmd = 0#32 := rfl
@[simp] theorem resetBlock_busy (s : State) : (resetBlock s).busy = false := rfl
@[simp] theorem resetBlock_err (s : State) : (resetBlock s).err = .ok := rfl
@[simp] theorem resetBlock_vkind (s : State) : (resetBlock s).vkind = .none := rfl
@[simp] theorem resetBlock_sampLen (s : State) : (resetBlock s).sampLen = 0 := rfl
@[simp] theorem resetBlock_symLen (s : State) : (resetBlock s).symLen = 0 := rfl
@[simp] theorem resetBlock_voltLen (s : State) : (resetBlock s).voltLen = 0 := rfl
@[simp] theorem resetBlock_palStart (s : State) : (resetBlock s).palStart = 0 := rfl
@[simp] theorem resetBlock_palLen (s : State) : (resetBlock s).palLen = 0 := rfl
@[simp] theorem resetBlock_zrStart (s : State) : (resetBlock s).zrStart = 0 := rfl
@[simp] theorem resetBlock_zrLen (s : State) : (resetBlock s).zrLen = 0 := rfl
@[simp] theorem resetBlock_mem (s : State) : (resetBlock s).mem = { sym := [], volt := [], samp := [] } := rfl
@[simp] theorem resetBlock_env (s : State) : (resetBlock s).env = s.env := rfl
@[simp] theorem resetBlock_schedule (s : State) : (resetBlock s).schedule = s.schedule := rfl
@[simp] theorem resetBlock_observed (s : State) : (resetBlock s).observed = s.observed := rfl
@[simp] theorem resetBlock_draws (s : State) : (resetBlock s).draws = s.draws := rfl

end Sys2Proof.Machine
end

