-- ==== Sys2Proof/Laws/Ops.lean ====
section
/-! SUPPORT. What each shared operation of a command can do: its conclusion, and the reading of its operands. -/

namespace Sys2Proof.Machine

/-- A command goes on to a next state in two ways: it completed, or it was ended by a command error. -/
theorem conclude_eq_next {s t : State} {r : Except Abort State} :
    conclude s r = .next t ↔
      (∃ u, r = .ok u ∧ t = complete u) ∨ (∃ e, r = .error (.cmdError e) ∧ t = raiseCmdError e s) := by
  match r with
  | .ok u => simp [conclude, eq_comm]
  | .error (.cmdError e) => simp [conclude, eq_comm]
  | .error (.fault f) => simp [conclude]

/-- A command stops with a fault exactly where its operands hold an unwritten cell. -/
theorem conclude_eq_fault {s : State} {r : Except Abort State} {f : Fault} :
    conclude s r = .fault f ↔ r = .error (.fault f) := by
  match r with
  | .ok u => simp [conclude]
  | .error (.cmdError e) => simp [conclude]
  | .error (.fault g) => simp [conclude]

theorem conclude_ne_refused {s : State} {r : Except Abort State} {q : Refusal} :
    conclude s r ≠ .refused q := by
  match r with
  | .ok u => simp [conclude]
  | .error (.cmdError e) => simp [conclude]
  | .error (.fault g) => simp [conclude]

@[simp] theorem bitOf_symOf (b : Bool) : bitOf (symOf b) = some b := by cases b <;> decide

/-- A byte is a symbol in one way. -/
theorem bitOf_eq_some {c : Byte} {b : Bool} : bitOf c = some b ↔ c = symOf b := by
  constructor
  · intro h
    unfold bitOf at h
    split at h
    · cases h; assumption
    · split at h
      · cases h; assumption
      · cases h
  · rintro rfl; simp

theorem bitOf_eq_none {c : Byte} : bitOf c = none ↔ c ≠ 0x30#8 ∧ c ≠ 0x31#8 := by
  unfold bitOf
  split
  · simp_all
  · split <;> simp_all

/-- A bit string is read exactly where every cell holds a symbol. -/
theorem readBits_eq_ok (m : Cells Byte) (n k : Nat) (bs : List Bool) :
    readBits m k n = .ok bs ↔ bs.length = n ∧ ∀ t, t < n → readCell m (k + t) = (bs[t]?).map symOf := by
  induction n generalizing k bs with
  | zero => simp [readBits, eq_comm]
  | succ n ih =>
    have shift : ∀ t, k + 1 + t = k + (t + 1) := by omega
    rw [readBits]
    constructor
    · intro h
      cases hx : readCell m k with
      | none => simp [hx] at h
      | some c =>
        cases hb : bitOf c with
        | none => simp [hx, hb] at h
        | some b =>
          cases hr : readBits m (k + 1) n with
          | error a => simp [hx, hb, hr] at h
          | ok ys =>
            simp only [hx, hb, hr, Except.ok.injEq] at h
            subst h
            have hys := (ih (k + 1) ys).1 hr
            refine ⟨by simp [hys.1], ?_⟩
            intro t ht
            cases t with
            | zero => simp [hx, bitOf_eq_some.1 hb]
            | succ t => rw [← shift, hys.2 t (by omega)]; simp
    · rintro ⟨hl, h⟩
      match bs, hl, h with
      | b :: bs, hl, h =>
        have h0 := h 0 (by omega)
        simp only [Nat.add_zero, List.getElem?_cons_zero, Option.map_some] at h0
        have hr := (ih (k + 1) bs).2 ⟨by simpa using hl, fun t ht => by
          rw [shift, h (t + 1) (by omega)]; simp⟩
        simp [h0, hr]

/-- Reading a bit string ends the command only with InvalidInput, at a written cell that is no symbol, all before it symbols. -/
theorem readBits_eq_cmdError {m : Cells Byte} {n k : Nat} {e : CmdError}
    (h : readBits m k n = .error (.cmdError e)) :
    e = .invalidInput ∧ ∃ j c, k ≤ j ∧ j < k + n ∧ readCell m j = some c ∧ bitOf c = none := by
  induction n generalizing k with
  | zero => cases h
  | succ n ih =>
    rw [readBits] at h
    cases hx : readCell m k with
    | none => simp [hx] at h
    | some c =>
      cases hb : bitOf c with
      | none =>
        simp only [hx, hb, Except.error.injEq, Abort.cmdError.injEq] at h
        exact ⟨h.symm, k, c, by omega, by omega, hx, hb⟩
      | some b =>
        cases hr : readBits m (k + 1) n with
        | ok ys => simp [hx, hb, hr] at h
        | error a =>
          simp only [hx, hb, hr, Except.error.injEq] at h
          subst h
          obtain ⟨he, j, c, h1, h2, h3, h4⟩ := ih hr
          exact ⟨he, j, c, by omega, by omega, h3, h4⟩

/-- Reading a bit string faults only at an unwritten cell of it. -/
theorem readBits_eq_fault {m : Cells Byte} {n k : Nat} {f : Fault}
    (h : readBits m k n = .error (.fault f)) :
    ∃ j, f = .unwrittenSym j ∧ readCell m j = none ∧ k ≤ j ∧ j < k + n := by
  induction n generalizing k with
  | zero => cases h
  | succ n ih =>
    rw [readBits] at h
    cases hx : readCell m k with
    | none =>
      simp only [hx, Except.error.injEq, Abort.fault.injEq] at h
      exact ⟨k, h.symm, hx, by omega, by omega⟩
    | some c =>
      cases hb : bitOf c with
      | none => simp [hx, hb] at h
      | some b =>
        cases hr : readBits m (k + 1) n with
        | ok ys => simp [hx, hb, hr] at h
        | error a =>
          simp only [hx, hb, hr, Except.error.injEq] at h
          subst h
          obtain ⟨j, h1, h2, h3, h4⟩ := ih hr
          exact ⟨j, h1, h2, by omega, by omega⟩

/-- The bit-string operand is the bits SYM holds, non-empty (R120). -/
theorem bitStringOperand_eq_ok {s : State} {bs : List Bool} :
    bitStringOperand s = .ok bs ↔
      bs ≠ [] ∧ s.symLen = bs.length ∧ ∀ t, t < s.symLen → readCell s.mem.sym t = (bs[t]?).map symOf := by
  unfold bitStringOperand
  split
  · rename_i h
    simp only [reduceCtorEq, false_iff]
    rintro ⟨hne, hl, -⟩
    exact hne (List.length_eq_zero_iff.1 (by omega))
  · rename_i h
    rw [readBits_eq_ok]
    simp only [Nat.zero_add]
    constructor
    · rintro ⟨hl, hr⟩
      exact ⟨by rintro rfl; exact h hl.symm, hl.symm, hr⟩
    · rintro ⟨-, hl, hr⟩
      exact ⟨hl.symm, hr⟩

/-- The voltage operand is the ternary values VOLT holds. -/
theorem voltageOperand_eq_ok {s : State} {v : List Trit} :
    voltageOperand s = .ok v ↔
      s.voltLen = v.length ∧ ∀ t, t < s.voltLen → readCell s.mem.volt t = v[t]? := by
  unfold voltageOperand
  have h := readCells_eq_ok s.mem.volt s.voltLen 0 v
  simp only [Nat.zero_add] at h
  cases hr : readCells s.mem.volt 0 s.voltLen with
  | error k => simp [hr] at h; simp; exact fun e => h e.symm
  | ok w =>
    simp only [hr, Except.ok.injEq] at h ⊢
    rw [h, eq_comm (a := v.length)]

/-- The sample operand is the values of the words SAMP holds. -/
theorem sampleOperand_eq_ok {s : State} {ws : List Word}
    (hl : s.sampLen = ws.length) (h : ∀ t, t < s.sampLen → readCell s.mem.samp t = ws[t]?) :
    sampleOperand s = .ok (ws.map sint) := by
  have hr := (readCells_eq_ok s.mem.samp s.sampLen 0 ws).2 ⟨hl.symm, by simpa using h⟩
  simp [sampleOperand, hr]

/-- No operand but the bit string ends a command with an error code. -/
theorem voltageOperand_ne_cmdError {s : State} {e : CmdError} : voltageOperand s ≠ .error (.cmdError e) := by
  unfold voltageOperand
  split <;> simp

theorem sampleOperand_ne_cmdError {s : State} {e : CmdError} : sampleOperand s ≠ .error (.cmdError e) := by
  unfold sampleOperand
  split <;> simp

end Sys2Proof.Machine
end

