-- ==== Sys2Proof/Laws/PerInstr.lean ====
section
/-! SUPPORT. Statements for all commands, made command by command. -/

namespace Sys2Proof.Laws.ReservedBitsClear

/-- The command word of a well-formed command has RSV = 0, its OP, and its DEPTH (R80, R82). -/
def Statement (i : Instr) : Prop :=
  i.wf = true → rsvField (encode i) = 0#19 ∧ opField (encode i) = opOf i ∧ depthField (encode i) = depthOf i

theorem fields_of_encode (i : Instr) :
    rsvField (encode i) = 0#19 ∧ opField (encode i) = opOf i ∧ depthField (encode i) = depthOf i := by
  unfold rsvField opField depthField encode
  generalize depthOf i = d
  generalize opOf i = o
  refine ⟨?_, ?_, ?_⟩ <;> ext k hk <;> simp <;> grind

theorem quantPcm (depth : Nat) : Statement (.quantPcm depth) := fun _ => fields_of_encode _
theorem quantDm : Statement .quantDm := fun _ => fields_of_encode _
theorem encNrzl : Statement .encNrzl := fun _ => fields_of_encode _
theorem encNrzi : Statement .encNrzi := fun _ => fields_of_encode _
theorem encMan : Statement .encMan := fun _ => fields_of_encode _
theorem encDman : Statement .encDman := fun _ => fields_of_encode _
theorem encAmi : Statement .encAmi := fun _ => fields_of_encode _
theorem scrB8zs : Statement .scrB8zs := fun _ => fields_of_encode _
theorem scrHdb3 : Statement .scrHdb3 := fun _ => fields_of_encode _
theorem anaPal : Statement .anaPal := fun _ => fields_of_encode _
theorem anaZrun : Statement .anaZrun := fun _ => fields_of_encode _

end Sys2Proof.Laws.ReservedBitsClear
end

