-- ==== Sys2Proof/Laws/Step.lean ====
section
/-! SUPPORT. What one step can do: which of the engine and the outside world moves, and what each turn leaves. -/

namespace Sys2Proof.Machine

/-- Every meaning is the conclusion of its command's effect. -/
theorem exec_eq_conclude (i : Instr) (s : State) : ∃ r, exec i s = conclude s r := by
  cases i <;> exact ⟨_, rfl⟩

/-- What the engine's step can go on to: an illegal word's error, or the command's next state. -/
theorem engineStep_eq_next {s t : State} (h : engineStep s = .next t) :
    (∃ e, decode s.cmd = .error e ∧ t = raiseCmdError .unsupportedTransition s)
      ∨ (∃ i, decode s.cmd = .ok i ∧ exec i s = .next t) := by
  unfold engineStep at h
  split at h
  · rename_i e he
    cases h
    exact .inl ⟨e, he, rfl⟩
  · rename_i i hi
    exact .inr ⟨i, hi, h⟩

/-- A host read stops only while idle, at an unwritten cell, which the fault names. -/
theorem busRead_eq_error {a : BusAddr} {s : State} {f : Fault} (h : busRead a s = .error f) :
    s.busy = false
      ∧ ((∃ k, f = .unwrittenSym k ∧ readCell s.mem.sym k = none)
        ∨ (∃ k, f = .unwrittenVolt k ∧ readCell s.mem.volt k = none)
        ∨ (∃ k, f = .unwrittenSamp k ∧ readCell s.mem.samp k = none)) := by
  unfold busRead at h
  cases ht : decodeAddr s.params a with
  | none => simp [ht] at h
  | some t =>
    cases hb : s.busy with
    | true => simp [ht, hb] at h
    | false =>
      simp only [ht, hb] at h
      refine ⟨rfl, ?_⟩
      cases t with
      | reg r => simp [readTarget] at h
      | sym k =>
        cases hk : readCell s.mem.sym k with
        | some c => simp [readTarget, hk] at h
        | none =>
          simp only [readTarget, hk, Bool.false_eq_true, if_false, Except.error.injEq] at h
          exact .inl ⟨k, h.symm, hk⟩
      | volt k =>
        cases hk : readCell s.mem.volt k with
        | some c => simp [readTarget, hk] at h
        | none =>
          simp only [readTarget, hk, Bool.false_eq_true, if_false, Except.error.injEq] at h
          exact .inr (.inl ⟨k, h.symm, hk⟩)
      | samp k =>
        cases hk : readCell s.mem.samp k with
        | some c => simp [readTarget, hk] at h
        | none =>
          simp only [readTarget, hk, Bool.false_eq_true, if_false, Except.error.injEq] at h
          exact .inr (.inr ⟨k, h.symm, hk⟩)

/-- A bus write changes nothing, or stores what it reaches. -/
theorem busWrite_cases (a : BusAddr) (d : Word) (s : State) :
    busWrite a d s = (.busErr, s)
      ∨ ∃ t s', decodeAddr s.params a = some t ∧ s.busy = false ∧ writeTarget t d s = some s'
          ∧ busWrite a d s = (.okay, s') := by
  unfold busWrite
  cases ht : decodeAddr s.params a with
  | none => exact .inl rfl
  | some t =>
    cases hb : s.busy with
    | true => exact .inl rfl
    | false =>
      cases hw : writeTarget t d s with
      | none => exact .inl (by simp [hw])
      | some s' => exact .inr ⟨t, s', rfl, rfl, hw, by simp [hw]⟩

/-- A transaction leaves the state, or is a write and leaves what the write leaves. -/
theorem transact_eq_ok {tx : Transaction} {s s' : State} {r : Reply} (h : transact tx s = .ok (r, s')) :
    (∃ a, tx = .read a ∧ busRead a s = .ok r ∧ s' = s)
      ∨ (∃ a d, tx = .write a d ∧ r = { resp := (busWrite a d s).1, data := 0#32 } ∧ s' = (busWrite a d s).2) := by
  cases tx with
  | read a =>
    simp only [transact] at h
    split at h
    · rename_i q hq
      cases h
      exact .inl ⟨a, rfl, hq, rfl⟩
    · cases h
  | write a d =>
    simp only [transact] at h
    cases h
    exact .inr ⟨a, d, rfl, rfl, rfl⟩

/-- What the outside world's next event can go on to. -/
theorem envStep_eq_next {s t : State} (h : envStep s = .next t) :
    (s.env = [] ∧ t = s)
      ∨ (∃ tx rest r s', s.env = .bus tx :: rest ∧ transact tx s = .ok (r, s')
          ∧ t = observe tx r { s' with env := rest })
      ∨ (∃ rest r, s.env = .poll :: rest ∧ busRead 0x00014#17 s = .ok r
          ∧ t = observe pollRead r { s with env := if r.data.getLsbD 0 then .poll :: rest else rest })
      ∨ (∃ during rest, s.env = .reset during :: rest ∧ t = resetTurn during rest s) := by
  unfold envStep at h
  split at h
  · rename_i he
    cases h
    exact .inl ⟨he, rfl⟩
  · rename_i tx rest he
    unfold hostTransaction at h
    split at h
    · cases h
    · rename_i r s' hr
      cases h
      exact .inr (.inl ⟨tx, rest, r, s', he, hr, rfl⟩)
  · rename_i rest he
    unfold hostPoll at h
    split at h
    · cases h
    · rename_i r s' hr
      cases h
      rcases transact_eq_ok hr with ⟨a, ha, hb, rfl⟩ | ⟨a, d, ha, -⟩
      · cases ha
        exact .inr (.inr (.inl ⟨rest, r, he, hb, rfl⟩))
      · cases ha
  · rename_i during rest he
    cases h
    exact .inr (.inr (.inr ⟨during, rest, he, rfl⟩))

/-- Which agent a step is of. -/
theorem step_eq (s : State) :
    (engineMoves s = true ∧ s.busy = true ∧ step s = engineStep (takeTurn s))
      ∨ (engineMoves s = false ∧ s.busy = true ∧ step s = envStep (takeTurn s))
      ∨ (engineMoves s = false ∧ s.busy = false ∧ step s = envStep s) := by
  unfold step
  cases hm : engineMoves s with
  | true =>
    refine .inl ⟨rfl, ?_, by simp⟩
    unfold engineMoves at hm
    cases hb : s.busy with
    | true => rfl
    | false => simp [hb] at hm
  | false =>
    cases hb : s.busy with
    | true => exact .inr (.inl ⟨rfl, rfl, by simp⟩)
    | false => exact .inr (.inr ⟨rfl, rfl, by simp⟩)

/-- The transactions of a reset change only the host's record and the count of free values. -/
theorem observeDuringReset_eq (during : List Transaction) (s : State) :
    ∃ o d, observeDuringReset during s = { s with observed := o, draws := d } := by
  induction during generalizing s with
  | nil => exact ⟨s.observed, s.draws, rfl⟩
  | cons tx during ih =>
    obtain ⟨o, d, h⟩ := ih { observe tx (replyDuringReset tx s.draws) s with draws := s.draws + 1 }
    exact ⟨o, d, by rw [observeDuringReset, h]; rfl⟩

end Sys2Proof.Machine
end

