-- ==== Sys2Proof/Tests/Slice0.lean ====
section
/-! SUPPORT. Tests of the model (expected values from the spec's worked examples and vectors, 95_test_vectors.md), and for each
statement with hypotheses a state and operands that meet them. -/

namespace Sys2Proof.Tests

open Sys2Proof Sys2Proof.Machine Sys2Proof.Statements

/-! ## Small states -/

def symState (codes : List Byte) : State :=
  { State.reset with symLen := codes.length, mem := { State.reset.mem with sym := writeCells [] 0 codes } }

def bitState (bits : List Bool) : State := symState (bits.map symOf)

def voltState (kind : VKind) (v : List Trit) : State :=
  { State.reset with voltLen := v.length, vkind := kind, mem := { State.reset.mem with volt := writeCells [] 0 v } }

def sampState (ws : List Word) : State :=
  { State.reset with sampLen := ws.length, mem := { State.reset.mem with samp := writeCells [] 0 ws } }

def nextOf (o : Host.Outcome State Fault Refusal) : Option State :=
  match o with
  | .next s => some s
  | .fault _ => none
  | .refused _ => none

def faultOf (o : Host.Outcome State Fault Refusal) : Option Fault :=
  match o with
  | .next _ => none
  | .fault f => some f
  | .refused _ => none

/-- The voltage sequence, VKIND and ERR a command leaves. -/
def voltsAfter (i : Instr) (s : State) : Option (List (Option Trit) × VKind × ErrCode) :=
  (nextOf (exec i s)).map fun t => ((List.range t.voltLen).map (readCell t.mem.volt), t.vkind, t.err)

/-- The bit string and ERR a command leaves. -/
def symsAfter (i : Instr) (s : State) : Option (List (Option Byte) × ErrCode) :=
  (nextOf (exec i s)).map fun t => ((List.range t.symLen).map (readCell t.mem.sym), t.err)

def ones (digits : List Nat) : List Bool := digits.map fun d => decide (d = 1)

def trits (xs : List Int) : List Trit :=
  xs.map fun x => if x = 1 then .plus else if x = 0 then .zero else .minus

/-! ## Well-formedness: each check refuses a term that breaks it -/

theorem test_depth_31_fits : (Instr.quantPcm 31).wf = true := by decide
theorem test_depth_32_refused : (Instr.quantPcm 32).wf = false := by decide
theorem test_params_default : Params.default.wf = true := by decide
theorem test_params_no_sym : ({ Params.default with symCap := 0, sampCap := 0 } : Params).wf = false := by decide
theorem test_params_sym_too_large : ({ Params.default with symCap := 4097 } : Params).wf = false := by decide
theorem test_params_no_samp : ({ Params.default with sampCap := 0 } : Params).wf = false := by decide
theorem test_params_samp_over_sym : ({ Params.default with sampCap := 1025 } : Params).wf = false := by decide
theorem test_params_no_depth : ({ Params.default with pcmMaxDepth := 0 } : Params).wf = false := by decide
theorem test_params_depth_32 : ({ Params.default with pcmMaxDepth := 32 } : Params).wf = false := by decide
theorem test_params_no_frac : ({ Params.default with sampleFracBits := 0 } : Params).wf = false := by decide
theorem test_params_frac_32 : ({ Params.default with sampleFracBits := 32 } : Params).wf = false := by decide

/-! ## Decoding: every constructor's word, written out from R80 and R82 -/

theorem test_decode_pcm : decode 0b00000000000000000001000000010000#32 = .ok (.quantPcm 16) := by decide
theorem test_decode_dm : decode 0b00000000000000000000000000010001#32 = .ok .quantDm := by decide
theorem test_decode_nrzl : decode 0b00000000000000000000000000100000#32 = .ok .encNrzl := by decide
theorem test_decode_nrzi : decode 0b00000000000000000000000000100001#32 = .ok .encNrzi := by decide
theorem test_decode_man : decode 0b00000000000000000000000000100010#32 = .ok .encMan := by decide
theorem test_decode_dman : decode 0b00000000000000000000000000100011#32 = .ok .encDman := by decide
theorem test_decode_ami : decode 0b00000000000000000000000000100100#32 = .ok .encAmi := by decide
theorem test_decode_b8zs : decode 0b00000000000000000000000000110000#32 = .ok .scrB8zs := by decide
theorem test_decode_hdb3 : decode 0b00000000000000000000000000110001#32 = .ok .scrHdb3 := by decide
theorem test_decode_pal : decode 0b00000000000000000000000001000000#32 = .ok .anaPal := by decide
theorem test_decode_zrun : decode 0b00000000000000000000000001000001#32 = .ok .anaZrun := by decide
theorem test_decode_illegal : decode 0x00000000#32 = .error (.undefinedOp 0x00#8)
    ∧ decode 0x00000111#32 = .error .depthNotZero ∧ decode 0x00002010#32 = .error .reservedBits := by decide

/-! ## Commands -/

/-- V-PCM-5: a boundary sample belongs to the upper level. -/
theorem test_pcm_boundary : symsAfter (.quantPcm 1) (sampState [0x0#32, 0x7FFF#32, 0x8000#32, 0x10000#32])
    = some ([some 0x30#8, some 0x30#8, some 0x31#8, some 0x31#8], .ok) := by decide
/-- V-PCM-2: a negative minimum, three bits a sample. -/
theorem test_pcm_negative : symsAfter (.quantPcm 3) (sampState [0xFFFF0000#32, 0x00008000#32, 0x00010000#32])
    = some ((ones [0, 0, 0, 1, 1, 0, 1, 1, 1]).map fun b => some (symOf b), .ok) := by decide
/-- V-DM-1. -/
theorem test_dm : symsAfter .quantDm (sampState [0x4000#32, 0x10000#32, 0x14000#32, 0x4000#32, 0xFFFF4000#32])
    = some ((ones [1, 1, 1, 0, 0]).map fun b => some (symOf b), .ok) := by decide
/-- V-DM-5: a sample equal to the prediction emits 0. -/
theorem test_dm_equal : symsAfter .quantDm (sampState [0x8000#32, 0x8000#32, 0x8000#32, 0x8000#32])
    = some ((ones [1, 0, 1, 0]).map fun b => some (symOf b), .ok) := by decide
/-- V-ENC-11. -/
theorem test_nrzl : voltsAfter .encNrzl (bitState (ones [1, 0, 1, 1, 0]))
    = some ((trits [1, -1, 1, 1, -1]).map some, .nrzl, .ok) := by decide
/-- V-ENC-12. -/
theorem test_nrzi : voltsAfter .encNrzi (bitState (ones [1, 0, 1, 1, 0]))
    = some ((trits [1, 1, -1, 1, 1]).map some, .nrzi, .ok) := by decide
/-- V-ENC-13. -/
theorem test_man : voltsAfter .encMan (bitState (ones [1, 0, 1, 1, 0]))
    = some ((trits [-1, 1, 1, -1, -1, 1, -1, 1, 1, -1]).map some, .man, .ok) := by decide
/-- V-ENC-14. -/
theorem test_dman : voltsAfter .encDman (bitState (ones [1, 0, 1, 1, 0]))
    = some ((trits [-1, 1, -1, 1, 1, -1, -1, 1, -1, 1]).map some, .dman, .ok) := by decide
/-- V-ENC-15. -/
theorem test_ami : voltsAfter .encAmi (bitState (ones [1, 0, 1, 1, 0]))
    = some ((trits [1, 0, -1, 1, 0]).map some, .ami, .ok) := by decide
/-- V-ENC-E2: a non-binary character fails the command with no other effect. -/
theorem test_bad_string : exec .encNrzl (symState [0x30#8, 0x31#8, 0x32#8, 0x30#8])
    = .next (failed .invalidInput (symState [0x30#8, 0x31#8, 0x32#8, 0x30#8])) := by rfl
/-- V-B8ZS-5: last_polarity from the input mark. -/
theorem test_b8zs : voltsAfter .scrB8zs (voltState .ami (trits [1, -1, 0, 0, 0, 0, 0, 0, 0, 0, 1]))
    = some ((trits [1, -1, 0, 0, 0, -1, 1, 0, -1, 1, 1]).map some, .amiB8zs, .ok) := by decide
/-- V-SCR-E3: a scrambled sequence is not scrambled again. -/
theorem test_b8zs_again : voltsAfter .scrB8zs (voltState .amiB8zs (trits [1]))
    = some ((trits [1]).map some, .amiB8zs, .unsupportedTransition) := by decide
/-- V-HDB3-11: an even form, then an even form again after one mark. -/
theorem test_hdb3 : voltsAfter .scrHdb3 (voltState .ami (trits [1, 0, -1, 0, 0, 0, 0, 1, 0, 0, 0, 0]))
    = some ((trits [1, 0, -1, 1, 0, 0, -1, 1, -1, 0, 0, 1]).map some, .amiHdb3, .ok) := by decide
/-- V-HDB3-2: after a substitution the odd form. -/
theorem test_hdb3_odd : voltsAfter .scrHdb3 (voltState .ami (trits [0, 0, 0, 0, 0, 0, 0, 0]))
    = some ((trits [-1, 0, 0, 1, 0, 0, 0, -1]).map some, .amiHdb3, .ok) := by decide
/-- V-PAL-8: a tie, the leftmost wins. -/
theorem test_pal : (nextOf (exec .anaPal (bitState (ones [1, 1, 0, 1, 0, 0])))).map
    (fun t => (t.palStart, t.palLen, t.err)) = some (1, 3, .ok) := by decide
/-- W2: the whole string. -/
theorem test_pal_whole : (nextOf (exec .anaPal (bitState (ones [1, 0, 1, 1, 1, 0, 1])))).map
    (fun t => (t.palStart, t.palLen, t.err)) = some (0, 7, .ok) := by decide
/-- V-ZR-5: a tie, the leftmost wins. -/
theorem test_zrun : (nextOf (exec .anaZrun (voltState .host (trits [1, 0, 0, 1, 0, 0])))).map
    (fun t => (t.zrStart, t.zrLen, t.err)) = some (1, 2, .ok) := by decide
/-- V-ZR-3: a run at the tail. -/
theorem test_zrun_tail : (nextOf (exec .anaZrun (voltState .none (trits [0, 0])))).map
    (fun t => (t.zrStart, t.zrLen, t.err)) = some (0, 2, .ok) := by decide
/-- U1: a command that reads an unwritten cell. -/
theorem test_unwritten : faultOf (exec .encAmi { State.reset with symLen := 1 }) = some (.unwrittenSym 0) := by decide

/-! ## Bus, step, fetch -/

/-- V-BUS-13: a VOLT write stores and makes VKIND HOST. -/
theorem test_volt_write : ((busWrite 0x08000#17 0xFFFFFFFF#32 State.reset).1,
    (busWrite 0x08000#17 0xFFFFFFFF#32 State.reset).2.vkind,
    (busWrite 0x08000#17 0xFFFFFFFF#32 State.reset).2.mem.volt) = (.okay, .host, [(0, .minus)]) := by decide
/-- V-BUS-10: the last VOLT cell and the address after it. -/
theorem test_volt_last : ((busWrite 0x09FFC#17 0#32 State.reset).1, (busWrite 0x0A000#17 0#32 State.reset).1)
    = (.okay, .busErr) := by decide
/-- V-BUS-3. -/
theorem test_caps : busRead 0x00008#17 State.reset = .ok (okayReply 0x04000400#32)
    ∧ busRead 0x0000C#17 State.reset = .ok (okayReply 0x00001010#32) := by decide
/-- The first step after reset runs the word placed. -/
theorem test_fetch : (nextOf (step (State.reset.withFetchWord 32 0x24))).map (fun t => (t.cmd, t.busy, t.err))
    = some (0x24#32, false, .invalidInput) := by decide
theorem test_table_word : decodeTableWord 32 0x1010 = some (.quantPcm 16)
    ∧ decodeTableWord 32 0x2010 = none := by decide
/-- W W POLL of a host program: CMD write, engine, STATUS read. -/
theorem test_poll_turn : (nextOf (step { State.reset with busy := true, env := [.poll], schedule := [.host] })).map
    (fun t => (t.env, t.busy, t.schedule)) = some ([.poll], true, []) := by decide
theorem test_spelling : spelling (.quantPcm 2) = "QUANT.PCM B=2" := by decide

/-! ## Witnesses: a state and operands that meet the hypotheses of each statement -/

theorem witness_DecodeOfEncode : (Instr.quantPcm 31).wf = true ∧ Instr.anaZrun.wf = true := by decide
theorem witness_EncodeOfDecode : decode 0x00001F10#32 = .ok (.quantPcm 31) := by decide
theorem witness_IllegalWordsAreUnsupported :
    IllegalWord 0x00002010#32 ∧ IllegalWord 0x00000025#32 ∧ IllegalWord 0x00000111#32
    ∧ ¬IllegalWord 0x00001F10#32 ∧ State.reset.busy = false ∧ State.reset.cmd = 0x00000000#32
    ∧ IllegalWord 0x00000000#32 := by decide
theorem witness_EveryPcmDepthDecodes : State.reset.params.pcmMaxDepth < 17 ∧ 17 < 32 := by decide
theorem witness_PcmQuantizesEachSample_invalid :
    State.reset.sampLen = 0 ∧ (sampState [0#32]).params.pcmMaxDepth < 17 := by decide
theorem witness_PcmQuantizesEachSample_capacity :
    let s : State := { State.reset with sampLen := 513 }
    s.sampLen ≠ 0 ∧ 1 ≤ 2 ∧ 2 ≤ s.params.pcmMaxDepth ∧ s.params.symCap < s.sampLen * 2 := by decide
/-- Two samples at depth 2 fill a SYM of 4 cells exactly; levels 3 and 0. -/
theorem witness_PcmQuantizesEachSample :
    let s : State := { sampState [0x10000#32, 0x0#32] with params := { Params.default with symCap := 4, sampCap := 4 } }
    let ws : List Word := [0x10000#32, 0x0#32]
    let level : Nat → Nat := fun j => if j = 0 then 3 else 0
    ws ≠ [] ∧ HoldsSamples s ws ∧ 1 ≤ 2 ∧ 2 ≤ s.params.pcmMaxDepth ∧ s.sampLen * 2 ≤ s.params.symCap
    ∧ (0 : Int) ∈ ws.map BitVec.toInt ∧ (∀ x ∈ ws.map BitVec.toInt, 0 ≤ x)
    ∧ (65536 : Int) ∈ ws.map BitVec.toInt ∧ (∀ x ∈ ws.map BitVec.toInt, x ≤ 65536)
    ∧ ∀ j, j < ws.length → (level j : Int) =
        if (65536 : Int) = 0 then 0
        else min (2 ^ 2 - 1) ((2 ^ 2 * ((ws.getD j 0#32).toInt - 0)) / (65536 - 0)) := by decide
theorem witness_PcmDegenerateRangeIsAllZero :
    let s : State := { sampState [0x7#32] with params := { Params.default with symCap := 1, sampCap := 1 } }
    let ws : List Word := [0x7#32]
    ws ≠ [] ∧ HoldsSamples s ws ∧ (∀ x ∈ ws, ∀ y ∈ ws, x = y) ∧ 1 ≤ 1 ∧ 1 ≤ s.params.pcmMaxDepth
    ∧ s.sampLen * 1 ≤ s.params.symCap := by
  refine ⟨by decide, by decide, ?_, by decide, by decide, by decide⟩
  intro x hx y hy
  simp only [List.mem_singleton] at hx hy
  rw [hx, hy]
theorem witness_PcmLevelsAreInRange : (-4 : Int) ≤ 3 ∧ (3 : Int) ≤ 3 ∧ (-4 : Int) < 3 := by decide
theorem witness_DmEmitsOneBitPerSample : (1 ≤ 1 ∧ 1 < 32) ∧ State.reset.sampLen = 0
    ∧ [0x8000#32] ≠ [] ∧ HoldsSamples (sampState [0x8000#32]) [0x8000#32] := by decide
/-- After two samples above it the prediction is at its bound; the next sample equals it. -/
theorem witness_DmPredictionIsBounded :
    Params.default.wf = true ∧ 2 ≤ [32768, 65536, 65536].length ∧ [32768, 65536, 65536].length ≤ Params.default.sampCap
    ∧ ([32768, 65536, 65536] : List Int)[2]? = some 65536
    ∧ dmPrediction 32768 [32768, 65536, 65536] 2 = 65536
    ∧ dmBits 32768 0 [32768, 65536, 65536] = ones [1, 1, 0] := by decide
/-- The error clauses of the five encoders and ANA.PAL (RejectsBadStrings), and a bit string: an empty string, a bad cell first and a bad cell last. -/
theorem witness_bit_string_commands :
    State.reset.symLen = 0
    ∧ (let s := symState [0x32#8]
       0 < s.symLen ∧ readCell s.mem.sym 0 = some 0x32#8 ∧ (0x32#8 : Byte) ≠ 0x30#8 ∧ (0x32#8 : Byte) ≠ 0x31#8)
    ∧ (let s := symState [0x30#8, 0x31#8, 0x20#8]
       2 < s.symLen ∧ (∀ j, j < 2 → readCell s.mem.sym j = some 0x30#8 ∨ readCell s.mem.sym j = some 0x31#8)
       ∧ readCell s.mem.sym 2 = some 0x20#8)
    ∧ ones [1, 0] ≠ [] ∧ HoldsBits (bitState (ones [1, 0])) (ones [1, 0]) := by decide
theorem witness_NrzlEncodesEachBit :
    ones [0] ≠ [] ∧ HoldsBits (bitState (ones [0])) (ones [0]) := by decide
theorem witness_NrziInvertsOnOnes :
    ones [1, 0, 1] ≠ [] ∧ HoldsBits (bitState (ones [1, 0, 1])) (ones [1, 0, 1]) := by decide
theorem witness_ManchesterEncodesPairs :
    ones [1, 0] ≠ [] ∧ HoldsBits (bitState (ones [1, 0])) (ones [1, 0]) := by decide
theorem witness_DifferentialManchesterEncodesPairs :
    ones [0, 0, 1] ≠ [] ∧ HoldsBits (bitState (ones [0, 0, 1])) (ones [0, 0, 1]) := by decide
theorem witness_AmiAlternatesMarks :
    ones [1, 1, 0, 1] ≠ [] ∧ HoldsBits (bitState (ones [1, 1, 0, 1])) (ones [1, 1, 0, 1]) := by decide
theorem witness_PalindromeIsLongestAndLeftmost :
    ones [0, 0, 1, 1] ≠ [] ∧ HoldsBits (bitState (ones [0, 0, 1, 1])) (ones [0, 0, 1, 1]) := by decide
theorem witness_B8zsSubstitutesWindows :
    (voltState .ami (trits [0, 0, 0, 0, 0, 0, 0, 0])).vkind = .ami
    ∧ HoldsVolts (voltState .ami (trits [0, 0, 0, 0, 0, 0, 0, 0])) (trits [0, 0, 0, 0, 0, 0, 0, 0]) := by decide
theorem witness_Hdb3SubstitutesWindows :
    (voltState .ami (trits [1, 0, 0, 0, 0])).vkind = .ami
    ∧ HoldsVolts (voltState .ami (trits [1, 0, 0, 0, 0])) (trits [1, 0, 0, 0, 0]) := by decide
/-- The largest length that is stored and the smallest that is not. -/
theorem witness_LengthWritesAreChecked :
    State.reset.busy = false ∧ (1024#32 : Word).toNat ≤ State.reset.params.symCap
    ∧ ¬(1025#32 : Word).toNat ≤ State.reset.params.symCap := by decide
theorem witness_EncodingsHaveTheStatedShape :
    ones [0, 1, 0, 1] ≠ [] ∧ HoldsBits (bitState (ones [0, 1, 0, 1])) (ones [0, 1, 0, 1])
    ∧ voltsAfter .encAmi (bitState (ones [0, 1, 0, 1])) = some ((trits [0, 1, 0, -1]).map some, .ami, .ok) := by decide
theorem witness_EncodeDependsOnTheBitStringAlone :
    let s₁ := bitState (ones [1])
    let s₂ := { bitState (ones [1]) with palLen := 7 }
    isEncoder .encAmi .ami ∧ s₁.symLen = s₂.symLen
    ∧ (∀ k, k < s₁.symLen → readCell s₁.mem.sym k = readCell s₂.mem.sym k)
    ∧ (nextOf (exec .encAmi s₁)).isSome = true ∧ (nextOf (exec .encAmi s₂)).isSome = true := by decide
theorem witness_EncodeIsIdempotent :
    isEncoder .encMan .man
    ∧ (nextOf (exec .encMan (bitState (ones [1])))).map (fun t => t.err) = some .ok := by decide
/-- For B8zsSubstitutesWindows and Hdb3SubstitutesWindows: another provenance, and an AMI sequence with a window. -/
theorem witness_scramble_commands :
    State.reset.vkind ≠ .ami
    ∧ (voltState .ami (trits [1, 0, 0, 0, 0, 0, 0, 0, 0])).vkind = .ami
    ∧ HoldsVolts (voltState .ami (trits [1, 0, 0, 0, 0, 0, 0, 0, 0])) (trits [1, 0, 0, 0, 0, 0, 0, 0, 0]) := by decide
/-- The cell that changes, and the shortest sequence with a window, for both scramblers. -/
theorem witness_ScramblersRewriteZeroWindowsOnly :
    isScrambler .scrB8zs .amiB8zs 8 ∧ isScrambler .scrHdb3 .amiHdb3 4
    ∧ (nextOf (exec .scrB8zs (voltState .ami (trits [0, 0, 0, 0, 0, 0, 0, 0])))).map
        (fun t => readCell t.mem.volt 7) = some (some .minus)
    ∧ readCell (voltState .ami (trits [0, 0, 0, 0, 0, 0, 0, 0])).mem.volt 7 = some .zero
    ∧ (nextOf (exec .scrHdb3 (voltState .ami (trits [0, 0, 0, 0])))).map
        (fun t => readCell t.mem.volt 0) = some (some .minus) := by decide
theorem witness_NoLongZeroRunSurvives :
    (nextOf (exec .scrB8zs (voltState .ami (trits [0, 0, 0, 0, 0, 0, 0, 0])))).map
      (fun t => (t.err, decide (0 + 8 ≤ t.voltLen))) = some (.ok, true)
    ∧ (nextOf (exec .scrHdb3 (voltState .ami (trits [0, 0, 0, 0])))).map
      (fun t => (t.err, decide (0 + 4 ≤ t.voltLen))) = some (.ok, true) := by decide
theorem witness_ScrambleAgainFails :
    isScrambler .scrHdb3 .amiHdb3 4 ∧ isScrambler .scrB8zs .amiB8zs 8
    ∧ (nextOf (exec .scrHdb3 (voltState .ami (trits [1])))).map (fun t => t.err) = some .ok := by decide
theorem witness_ZeroRunIsLongestAndLeftmost :
    HoldsVolts State.reset [] ∧ HoldsVolts (voltState .host (trits [0, 1, 0])) (trits [0, 1, 0]) := by decide
theorem witness_CenterExpansionFindsThePalindrome :
    ones [0, 1, 1] ≠ [] ∧ centerExpansion (ones [0, 1, 1]) = (1, 2) := by decide
theorem witness_FailedCommandChangesOnlyStatus :
    (nextOf (engineStep { State.reset with cmd := 0x20#32, busy := true })).map (fun t => t.err)
      = some .invalidInput := by decide
theorem witness_ErrorsHaveTheirCauses :
    decode 0x00000111#32 = .error .depthNotZero
    ∧ (nextOf (engineStep { State.reset with cmd := 0x111#32, busy := true })).isSome = true
    ∧ (nextOf (exec .scrB8zs State.reset)).map (fun t => t.err) = some .unsupportedTransition
    ∧ (nextOf (exec (.quantPcm 2) { State.reset with sampLen := 513 })).map (fun t => t.err) = some .capacityExceeded
    ∧ (nextOf (exec (.quantPcm 2) { State.reset with sampLen := 0 })).map (fun t => t.err) = some .invalidInput := by
  decide
theorem witness_WrittenInputsComplete :
    InputsWritten (.quantPcm 2) (sampState [0#32]) ∧ InputsWritten .quantDm (sampState [0#32])
    ∧ InputsWritten .encAmi (bitState [true]) ∧ InputsWritten .anaPal (bitState [true])
    ∧ InputsWritten .scrB8zs (voltState .ami [.plus]) ∧ InputsWritten .anaZrun (voltState .none [.plus]) := by decide
theorem witness_CommandsKeepCmdAndSamples : (nextOf (exec .anaZrun State.reset)).isSome = true := by decide
/-- A stale cell beyond the new length: V-ENC stale cells. -/
theorem witness_CommandsWriteOnlyWhatTheyName :
    let s := { bitState (ones [1]) with mem := { (bitState (ones [1])).mem with volt := [(1, .plus)] } }
    (nextOf (exec .encNrzl s)).map (fun t => (t.voltLen, t.err, readCell t.mem.volt 1)) = some (1, .ok, some .plus)
    ∧ (nextOf (exec .scrB8zs (voltState .ami [.plus]))).isSome = true
    ∧ (nextOf (exec .quantDm (sampState [0#32]))).map (fun t => t.err) = some .ok := by decide
theorem witness_VkindRecordsProvenance :
    (nextOf (exec .encNrzl (bitState [true]))).isSome = true ∧ State.reset.busy = false := by decide
/-- An unwritten first cell, and an unwritten cell after written ones, in each buffer. -/
theorem witness_UnwrittenCellsFault :
    (let s := { bitState (ones [1, 0]) with symLen := 3 }
     2 < s.symLen ∧ (∀ j, j < 2 → readCell s.mem.sym j = some 0x30#8 ∨ readCell s.mem.sym j = some 0x31#8)
     ∧ readCell s.mem.sym 2 = none)
    ∧ (let s := { voltState .ami [.plus] with voltLen := 2 }
       1 < s.voltLen ∧ (∀ j, j < 1 → (readCell s.mem.volt j).isSome = true) ∧ readCell s.mem.volt 1 = none
       ∧ s.vkind = .ami)
    ∧ (let s := { sampState [0#32] with sampLen := 2 }
       1 < s.sampLen ∧ (∀ j, j < 1 → (readCell s.mem.samp j).isSome = true) ∧ readCell s.mem.samp 1 = none
       ∧ 1 ≤ 1 ∧ 1 ≤ s.params.pcmMaxDepth ∧ s.sampLen * 1 ≤ s.params.symCap)
    ∧ State.reset.params.wf = true ∧ State.reset.busy = false
    ∧ 1023 < State.reset.params.symCap ∧ readCell State.reset.mem.sym 1023 = none
    ∧ 2047 < 2 * State.reset.params.symCap ∧ readCell State.reset.mem.volt 2047 = none
    ∧ 1023 < State.reset.params.sampCap ∧ readCell State.reset.mem.samp 1023 = none := by decide
theorem witness_StopsOnlyOnUnwrittenCells :
    faultOf (step { State.reset with cmd := 0x20#32, busy := true, symLen := 1 }) = some (.unwrittenSym 0)
    ∧ faultOf (step { State.reset with env := [.bus (.read 0x10000#17)] }) = some (.unwrittenSamp 0) := by decide
theorem witness_ConstantRegistersRead : State.reset.params.wf = true ∧ State.reset.params = Params.default := by decide
theorem witness_IdleRegistersRead : State.reset.busy = false := by decide
theorem witness_CmdWriteIsAccepted :
    State.reset.busy = false ∧ (accept 0x41#32 State.reset).busy = true := by decide
theorem witness_SymCellsReadAndWrite :
    let s := symState [0x39#8]
    s.params.wf = true ∧ s.busy = false ∧ 0 < s.params.symCap ∧ readCell s.mem.sym 0 = some 0x39#8
    ∧ 1023 < s.params.symCap := by decide
theorem witness_VoltCellsReadAndWrite :
    let s := voltState .none [.minus]
    s.params.wf = true ∧ s.busy = false ∧ 2047 < 2 * s.params.symCap ∧ readCell s.mem.volt 0 = some .minus
    ∧ (0x00000002#32 : Word) ≠ 0x00000000#32 ∧ (0x00000002#32 : Word) ≠ 0x00000001#32
    ∧ (0x00000002#32 : Word) ≠ 0xFFFFFFFF#32 := by decide
theorem witness_SampCellsReadAndWrite :
    let s := sampState [0x80000000#32]
    s.params.wf = true ∧ s.busy = false ∧ 1023 < s.params.sampCap
    ∧ readCell s.mem.samp 0 = some 0x80000000#32 := by decide
theorem witness_BusErrorsHaveTheirCauses :
    (busWrite 0x08002#17 1#32 State.reset).1 = .busErr
    ∧ busRead 0x1FFFC#17 State.reset = .ok busErrorReply ∧ busErrorReply.resp = .busErr := by decide
theorem witness_BusyBlocksTheHost :
    (accept 0x41#32 State.reset).busy = true ∧ (0x0000C#17 : BusAddr).toNat = 0xC
    ∧ (0x00010#17 : BusAddr).toNat ≠ 0x0 ∧ (0x00010#17 : BusAddr).toNat ≠ 0x4 ∧ (0x00010#17 : BusAddr).toNat ≠ 0x8
    ∧ (0x00010#17 : BusAddr).toNat ≠ 0xC ∧ (0x00010#17 : BusAddr).toNat ≠ 0x14 := by decide
theorem witness_StepRunsThePendingCommand :
    engineMoves (accept 0x41#32 State.reset) = true ∧ decode (accept 0x41#32 State.reset).cmd = .ok .anaZrun
    ∧ decodeTableWord 32 0x41 = some .anaZrun
    ∧ engineMoves (accept 0x2010#32 State.reset) = true
    ∧ decode (accept 0x2010#32 State.reset).cmd = .error .reservedBits
    ∧ decodeTableWord 32 0x2010 = none := by decide
theorem witness_StepArbitratesTheAgents :
    let s := { accept 0x41#32 State.reset with env := [.poll], schedule := [.engine] }
    s.busy = true ∧ s.env = .poll :: [] ∧ s.schedule.head? ≠ some .host ∧ EnvEvent.poll ≠ .reset []
    ∧ (accept 0x41#32 State.reset).env = [] ∧ State.reset.busy = false ∧ State.reset.env = []
    ∧ ({ accept 0x41#32 State.reset with env := [.reset []] } : State).env = .reset [] :: []
    ∧ ({ s with schedule := [.host] } : State).schedule.head? = some .host := by decide
theorem witness_BusyStepRecordsTheReply :
    let s := { accept 0x41#32 State.reset with schedule := [.host] }
    s.busy = true ∧ s.schedule.head? = some .host
    ∧ ({ s with env := [.bus (.read 0x14#17)] } : State).env = .bus (.read 0x14#17) :: []
    ∧ (0x14#17 : BusAddr).toNat ∈ [0x0, 0x4, 0x8, 0xC, 0x14]
    ∧ ({ s with env := [.bus (.read 0x10#17)] } : State).env = .bus (.read 0x10#17) :: []
    ∧ (0x10#17 : BusAddr).toNat ∉ [0x0, 0x4, 0x8, 0xC, 0x14]
    ∧ ({ s with env := [.bus (.write 0x10#17 0x41#32)] } : State).env = .bus (.write 0x10#17 0x41#32) :: [] := by decide
theorem witness_IdleStepPerformsTheTransaction :
    State.reset.busy = false
    ∧ ({ State.reset with env := [.bus (.read 0x0#17)] } : State).env = .bus (.read 0x0#17) :: []
    ∧ busRead 0x0#17 State.reset = .ok (okayReply 0x44534743#32)
    ∧ ({ State.reset with env := [.bus (.write 0x4000#17 0x31#32)] } : State).env
        = .bus (.write 0x4000#17 0x31#32) :: [] := by decide
theorem witness_PollWaitsForCompletion :
    let s := { accept 0x41#32 State.reset with env := [.poll], schedule := [.host] }
    s.env = .poll :: [] ∧ s.busy = true ∧ s.schedule.head? = some .host
    ∧ ({ State.reset with env := [.poll] } : State).env = .poll :: [] ∧ State.reset.busy = false := by decide
theorem witness_ResetTakesEffectFromEveryState :
    ({ accept 0x41#32 State.reset with env := [.reset [.read 0x0#17]] } : State).env
      = .reset [.read 0x0#17] :: [] := by decide
theorem witness_InvariantHoldsAtReset : ({ Params.default with symCap := 1, sampCap := 1 } : Params).wf = true := by
  decide
theorem witness_EveryStepKeepsTheInvariant :
    let s := accept 0x24#32 (bitState (ones [1, 0]))
    s.Inv ∧ (nextOf (step s)).map (fun t => t.vkind) = some .ami := by decide
/-- A state whose VKIND is AMI and a step from it that keeps it so. -/
theorem witness_EveryStepKeepsProvenance :
    AmiDerived (accept 0x41#32 (voltState .ami (trits [1, 0, -1])))
    ∧ (nextOf (step (accept 0x41#32 (voltState .ami (trits [1, 0, -1]))))).map (fun t => t.vkind) = some .ami :=
  ⟨fun _ => ⟨ones [1, 0, 1], by decide, by decide⟩, by decide⟩
theorem witness_ResultsChangeOnlyByTheirCommand :
    let s := accept 0x40#32 (bitState (ones [1]))
    s.env = [] ∧ s.palLen = 0 ∧ (nextOf (step s)).map (fun t => t.palLen) = some 1
    ∧ (nextOf (step (accept 0x41#32 (voltState .ami [.zero])))).map (fun t => t.zrLen) = some 1 := by decide
theorem witness_PendingCommandIsExecuted :
    let s := { accept 0x41#32 State.reset with env := [.poll], schedule := [.host, .host] }
    s.busy = true ∧ EnvEvent.reset [] ∉ s.env := by decide

end Sys2Proof.Tests
end

section
/-! PROOFS. Every step keeps the block's invariant (R29, R33). Three layers: how long each command's output is and where each
analyzer's result lies; the invariant over each named update of the state; the invariant over each turn of a step. -/

namespace Sys2Proof.Machine

/-! ### What a successful command read and wrote -/

/-- QUANT.PCM succeeds only where its output fits SYM (R102). -/
theorem quantPcmEffect_eq_ok {depth : Nat} {s u : State} (h : quantPcmEffect depth s = .ok u) :
    s.sampLen * depth ≤ s.params.symCap
      ∧ ∃ xs, sampleOperand s = .ok xs
          ∧ u = storeSymbols ((pcmBits depth xs).map symOf) (s.sampLen * depth) s := by
  unfold quantPcmEffect at h
  split at h
  · cases h
  · split at h
    · cases h
    · split at h
      · cases h
      · rename_i hcap
        split at h
        · cases h
        · rename_i xs hxs
          cases h
          exact ⟨Nat.le_of_not_lt hcap, xs, hxs, rfl⟩

theorem quantDmEffect_eq_ok {s u : State} (h : quantDmEffect s = .ok u) :
    ∃ xs, sampleOperand s = .ok xs
      ∧ u = storeSymbols ((dmBits (2 ^ (s.params.sampleFracBits - 1)) 0 xs).map symOf) s.sampLen s := by
  unfold quantDmEffect at h
  split at h
  · cases h
  · split at h
    · cases h
    · rename_i xs hxs
      cases h
      exact ⟨xs, hxs, rfl⟩

theorem encodeEffect_eq_ok {kind : VKind} {emit : List Bool → List Trit} {s u : State}
    (h : encodeEffect kind emit s = .ok u) :
    ∃ bits, bitStringOperand s = .ok bits ∧ u = storeVoltages kind (emit bits) s := by
  unfold encodeEffect at h
  split at h
  · cases h
  · rename_i bits hbits
    cases h
    exact ⟨bits, hbits, rfl⟩

theorem scrambleEffect_eq_ok {kind : VKind} {scan : List Trit → List Trit} {s u : State}
    (h : scrambleEffect kind scan s = .ok u) :
    s.vkind = .ami ∧ ∃ v, voltageOperand s = .ok v ∧ u = storeScrambled kind (scan v) s := by
  unfold scrambleEffect at h
  split at h
  · cases h
  · rename_i hkind
    split at h
    · cases h
    · rename_i v hv
      cases h
      exact ⟨not_not.1 hkind, v, hv, rfl⟩

theorem anaPalEffect_eq_ok {s u : State} (h : anaPalEffect s = .ok u) :
    ∃ bits, bitStringOperand s = .ok bits ∧ u = storePalindrome (longestPal bits) s := by
  unfold anaPalEffect at h
  split at h
  · cases h
  · rename_i bits hbits
    cases h
    exact ⟨bits, hbits, rfl⟩

theorem anaZrunEffect_eq_ok {s u : State} (h : anaZrunEffect s = .ok u) :
    ∃ v, voltageOperand s = .ok v ∧ u = storeZeroRun (longestZeroRun v) s := by
  unfold anaZrunEffect at h
  split at h
  · cases h
  · rename_i v hv
    cases h
    exact ⟨v, hv, rfl⟩

/-! ### How long an operand and an output are -/

theorem bitStringOperand_length {s : State} {bits : List Bool} (h : bitStringOperand s = .ok bits) :
    bits.length = s.symLen := by
  obtain ⟨-, hlen, -⟩ := bitStringOperand_eq_ok.1 h
  exact hlen.symm

theorem voltageOperand_length {s : State} {v : List Trit} (h : voltageOperand s = .ok v) :
    v.length = s.voltLen :=
  (voltageOperand_eq_ok.1 h).1.symm

theorem sampleOperand_length {s : State} {xs : List Int} (h : sampleOperand s = .ok xs) :
    xs.length = s.sampLen := by
  unfold sampleOperand at h
  split at h
  · cases h
  · rename_i ws hws
    cases h
    rw [List.length_map, ((readCells_eq_ok _ _ _ _).1 hws).1]

@[simp] theorem levelBits_length (depth level : Nat) : (levelBits depth level).length = depth := by
  simp [levelBits]

/-- QUANT.PCM gives `depth` bits for each sample (R100). -/
@[simp] theorem pcmBits_length (depth : Nat) (xs : List Int) : (pcmBits depth xs).length = xs.length * depth := by
  simp [pcmBits]

/-- QUANT.DM gives one bit for each sample (R105). -/
@[simp] theorem dmBits_length (h p : Int) (xs : List Int) : (dmBits h p xs).length = xs.length := by
  induction xs generalizing p with
  | nil => rfl
  | cons x xs ih =>
    unfold dmBits
    split <;> simp [ih]

@[simp] theorem emitNrzl_length (bits : List Bool) : (emitNrzl bits).length = bits.length := by
  simp [emitNrzl]

@[simp] theorem emitNrzi_length (level : Trit) (bits : List Bool) :
    (emitNrzi level bits).length = bits.length := by
  induction bits generalizing level with
  | nil => rfl
  | cons b bits ih => cases b <;> simp [emitNrzi, ih]

/-- Manchester gives two cells for each bit (R123). -/
@[simp] theorem emitMan_length (bits : List Bool) : (emitMan bits).length = 2 * bits.length := by
  unfold emitMan
  induction bits with
  | nil => rfl
  | cons b bits ih => cases b <;> simp [ih] <;> omega

/-- Differential Manchester gives two cells for each bit (R124). -/
@[simp] theorem emitDman_length (level : Trit) (bits : List Bool) :
    (emitDman level bits).length = 2 * bits.length := by
  induction bits generalizing level with
  | nil => rfl
  | cons b bits ih => cases b <;> simp [emitDman, ih] <;> omega

@[simp] theorem emitAmi_length (polarity : Trit) (bits : List Bool) :
    (emitAmi polarity bits).length = bits.length := by
  induction bits generalizing polarity with
  | nil => rfl
  | cons b bits ih => cases b <;> simp [emitAmi, ih]

@[simp] theorem b8zsSubstitute_length (v : List Trit) (i : Nat) (last : Trit) :
    (b8zsSubstitute v i last).length = v.length := by
  simp [b8zsSubstitute]

@[simp] theorem b8zsScan_length (fuel i : Nat) (last : Trit) (v : List Trit) :
    (b8zsScan fuel i last v).length = v.length := by
  induction fuel generalizing i last v with
  | zero => rfl
  | succ fuel ih =>
    unfold b8zsScan
    split
    · split <;> simp [ih]
    · rfl

@[simp] theorem b8zs_length (v : List Trit) : (b8zs v).length = v.length := b8zsScan_length _ _ _ _

@[simp] theorem hdb3Substitute_length (v : List Trit) (i ones : Nat) (last : Trit) :
    (hdb3Substitute v i ones last).length = v.length := by
  unfold hdb3Substitute
  split <;> simp

@[simp] theorem hdb3Scan_length (fuel i : Nat) (last : Trit) (ones : Nat) (v : List Trit) :
    (hdb3Scan fuel i last ones v).length = v.length := by
  induction fuel generalizing i last ones v with
  | zero => rfl
  | succ fuel ih =>
    unfold hdb3Scan
    split
    · split <;> simp [ih]
    · rfl

@[simp] theorem hdb3_length (v : List Trit) : (hdb3 v).length = v.length := hdb3Scan_length _ _ _ _ _

/-! ### Where an analyzer's result lies -/

theorem leftmostPal_fits {bits : List Bool} {len i : Nat} (h : leftmostPal bits (len + 1) = some i) :
    i + (len + 1) ≤ bits.length := by
  have hi := List.mem_range.1 (List.mem_of_find?_eq_some h)
  omega

theorem longestPalUpTo_fits (bits : List Bool) (len : Nat) :
    (longestPalUpTo bits len).1 + (longestPalUpTo bits len).2 ≤ bits.length := by
  induction len with
  | zero => exact Nat.zero_le _
  | succ len ih =>
    unfold longestPalUpTo
    split
    · rename_i i hi
      exact leftmostPal_fits hi
    · exact ih

/-- The palindrome of ANA.PAL lies in the bit string (R160). -/
theorem longestPal_fits (bits : List Bool) :
    (longestPal bits).1 + (longestPal bits).2 ≤ bits.length :=
  longestPalUpTo_fits bits bits.length

/-- Both runs of a scan that has passed `k` cells end within them. -/
structure ZeroScan.Within (k : Nat) (z : ZeroScan) : Prop where
  best_le : z.bestStart + z.best ≤ k
  cur_le : z.curStart + z.cur ≤ k

theorem compareRun_within {k : Nat} {z : ZeroScan} (h : z.Within k) : (compareRun z).Within k := by
  unfold compareRun
  split
  · exact ⟨h.cur_le, h.cur_le⟩
  · exact h

/-- A mark ends the current run; the best one so far stays within the cells passed. -/
theorem ZeroScan.Within.mark {k : Nat} {z : ZeroScan} (h : z.Within k) :
    ZeroScan.Within (k + 1) { compareRun z with cur := 0 } := by
  obtain ⟨hbest, hcur⟩ := compareRun_within h
  exact ⟨Nat.le_succ_of_le hbest, by dsimp only; omega⟩

/-- A zero at cell `k` starts a run there or makes the current one longer. -/
theorem ZeroScan.Within.zero {k : Nat} {z : ZeroScan} (h : z.Within k) :
    ZeroScan.Within (k + 1)
      { z with cur := z.cur + 1, curStart := if z.cur = 0 then k else z.curStart } := by
  obtain ⟨hbest, hcur⟩ := h
  refine ⟨Nat.le_succ_of_le hbest, ?_⟩
  dsimp only
  split <;> omega

theorem zeroScan_within {k : Nat} {z : ZeroScan} (v : List Trit) (h : z.Within k) :
    (zeroScan k v z).Within (k + v.length) := by
  induction v generalizing k z with
  | nil => exact h
  | cons x v ih =>
    rw [List.length_cons, Nat.add_comm v.length, ← Nat.add_assoc]
    cases x with
    | zero => exact ih h.zero
    | plus => exact ih h.mark
    | minus => exact ih h.mark

/-- The zero run of ANA.ZRUN lies in the voltage sequence (R161). -/
theorem longestZeroRun_fits (v : List Trit) :
    (longestZeroRun v).1 + (longestZeroRun v).2 ≤ v.length := by
  have hscan := zeroScan_within (k := 0) v
    (z := { best := 0, bestStart := 0, cur := 0, curStart := 0 }) ⟨Nat.le_refl 0, Nat.le_refl 0⟩
  have hbest := (compareRun_within hscan).best_le
  unfold longestZeroRun
  dsimp only
  split
  · simpa using hbest
  · exact Nat.zero_le _

/-! ### The invariant over each update of the state -/

theorem inv_resetOf {p : Params} (h : p.wf = true) : (State.resetOf p).Inv :=
  ⟨h, Nat.zero_le _, Nat.zero_le _, Nat.zero_le _, Nat.zero_le _, Nat.zero_le _, Nat.zero_le _, Nat.zero_le _,
    memory_wf_reset p⟩

theorem inv_complete {s : State} (h : s.Inv) : (complete s).Inv := h

theorem inv_raiseCmdError {s : State} (e : CmdError) (h : s.Inv) : (raiseCmdError e s).Inv := h

theorem inv_accept {s : State} (d : Word) (h : s.Inv) : (accept d s).Inv := h

theorem inv_takeTurn {s : State} (h : s.Inv) : (takeTurn s).Inv := h

theorem inv_observe {s : State} (tx : Transaction) (r : Reply) (env : List EnvEvent) (h : s.Inv) :
    (observe tx r { s with env := env }).Inv := h

theorem inv_storeSymbols {s : State} {bytes : List Byte} {n : Nat} (h : s.Inv)
    (hlen : bytes.length = n) (hcap : n ≤ s.params.symCap) : (storeSymbols bytes n s).Inv := by
  obtain ⟨hp, hsamp, -, hvolt, hps, hpl, hzs, hzl, hmem⟩ := h
  exact ⟨hp, hsamp, hcap, hvolt, hps, hpl, hzs, hzl, memory_wf_sym hmem bytes 0 (by omega)⟩

theorem inv_storeVoltages {s : State} {out : List Trit} (kind : VKind) (h : s.Inv)
    (hcap : out.length ≤ s.params.voltCap) : (storeVoltages kind out s).Inv := by
  obtain ⟨hp, hsamp, hsym, -, hps, hpl, hzs, hzl, hmem⟩ := h
  exact ⟨hp, hsamp, hsym, hcap, hps, hpl, hzs, hzl, memory_wf_volt hmem out 0 (by omega)⟩

theorem inv_storeScrambled {s : State} {out : List Trit} (kind : VKind) (h : s.Inv)
    (hcap : out.length ≤ s.params.voltCap) : (storeScrambled kind out s).Inv := by
  obtain ⟨hp, hsamp, hsym, hvolt, hps, hpl, hzs, hzl, hmem⟩ := h
  exact ⟨hp, hsamp, hsym, hvolt, hps, hpl, hzs, hzl, memory_wf_volt hmem out 0 (by omega)⟩

theorem inv_storePalindrome {s : State} {r : Nat × Nat} (h : s.Inv) (hr : r.1 + r.2 ≤ s.symLen) :
    (storePalindrome r s).Inv := by
  obtain ⟨hp, hsamp, hsym, hvolt, -, -, hzs, hzl, hmem⟩ := h
  have hfits : r.1 + r.2 ≤ s.params.symCap := Nat.le_trans hr hsym
  exact ⟨hp, hsamp, hsym, hvolt, Nat.le_of_add_right_le hfits, Nat.le_of_add_left_le hfits, hzs, hzl, hmem⟩

theorem inv_storeZeroRun {s : State} {r : Nat × Nat} (h : s.Inv) (hr : r.1 + r.2 ≤ s.voltLen) :
    (storeZeroRun r s).Inv := by
  obtain ⟨hp, hsamp, hsym, hvolt, hps, hpl, -, -, hmem⟩ := h
  have hfits : r.1 + r.2 ≤ s.params.voltCap := Nat.le_trans hr hvolt
  exact ⟨hp, hsamp, hsym, hvolt, hps, hpl, Nat.le_of_add_right_le hfits, Nat.le_of_add_left_le hfits, hmem⟩

theorem inv_writeSym {s : State} {k : Nat} (d : Word) (h : s.Inv) (hk : k < s.params.symCap) :
    (writeSym k d s).Inv := by
  obtain ⟨hp, hsamp, hsym, hvolt, hps, hpl, hzs, hzl, hmem⟩ := h
  exact ⟨hp, hsamp, hsym, hvolt, hps, hpl, hzs, hzl, memory_wf_sym hmem [_] k hk⟩

theorem inv_writeVolt {s : State} {k : Nat} (x : Trit) (h : s.Inv) (hk : k < s.params.voltCap) :
    (writeVolt k x s).Inv := by
  obtain ⟨hp, hsamp, hsym, hvolt, hps, hpl, hzs, hzl, hmem⟩ := h
  exact ⟨hp, hsamp, hsym, hvolt, hps, hpl, hzs, hzl, memory_wf_volt hmem [_] k hk⟩

theorem inv_writeSamp {s : State} {k : Nat} (d : Word) (h : s.Inv) (hk : k < s.params.sampCap) :
    (writeSamp k d s).Inv := by
  obtain ⟨hp, hsamp, hsym, hvolt, hps, hpl, hzs, hzl, hmem⟩ := h
  exact ⟨hp, hsamp, hsym, hvolt, hps, hpl, hzs, hzl, memory_wf_samp hmem d k hk⟩

/-! ### The invariant over a host write -/

/-- A register write that is taken is a CMD write, or stores a length within its buffer (R29, R211). -/
theorem writeReg_eq_some {r : Reg} {d : Word} {s t : State} (h : writeReg r d s = some t) :
    t = accept d s
      ∨ (d.toNat ≤ s.params.sampCap ∧ t = { s with sampLen := d.toNat })
      ∨ (d.toNat ≤ s.params.symCap ∧ t = { s with symLen := d.toNat })
      ∨ (d.toNat ≤ s.params.voltCap ∧ t = { s with voltLen := d.toNat, vkind := .host }) := by
  cases r <;> simp only [writeReg, Option.ite_none_right_eq_some, Option.some.injEq, reduceCtorEq] at h
  case cmd => exact .inl h.symm
  case sampLen => exact .inr (.inl ⟨h.1, h.2.symm⟩)
  case symLen => exact .inr (.inr (.inl ⟨h.1, h.2.symm⟩))
  case voltLen => exact .inr (.inr (.inr ⟨h.1, h.2.symm⟩))

theorem writeReg_keeps_inv {r : Reg} {d : Word} {s t : State} (h : s.Inv) (hw : writeReg r d s = some t) :
    t.Inv := by
  have ⟨hp, hsamp, hsym, hvolt, hrest⟩ := h
  obtain rfl | ⟨hcap, rfl⟩ | ⟨hcap, rfl⟩ | ⟨hcap, rfl⟩ := writeReg_eq_some hw
  · exact inv_accept d h
  · exact ⟨hp, hcap, hsym, hvolt, hrest⟩
  · exact ⟨hp, hsamp, hcap, hvolt, hrest⟩
  · exact ⟨hp, hsamp, hsym, hcap, hrest⟩

/-- The address map reaches only cells below the capacity (R53), so a write to one keeps the buffers canonical. -/
theorem writeTarget_keeps_inv {a : BusAddr} {tgt : Target} {d : Word} {s t : State} (h : s.Inv)
    (ha : decodeAddr s.params a = some tgt) (hw : writeTarget tgt d s = some t) : t.Inv := by
  have hcell := decodeAddr_cell ha
  cases tgt with
  | reg r => exact writeReg_keeps_inv h hw
  | sym k =>
    cases hw
    exact inv_writeSym d h hcell.1
  | volt k =>
    simp only [writeTarget] at hw
    split at hw
    · cases hw
      exact inv_writeVolt _ h hcell.1
    · cases hw
  | samp k =>
    cases hw
    exact inv_writeSamp d h hcell.1

theorem busWrite_keeps_inv {s : State} (a : BusAddr) (d : Word) (h : s.Inv) : (busWrite a d s).2.Inv := by
  obtain hw | ⟨tgt, t, ha, -, ht, hw⟩ := busWrite_cases a d s <;> rw [hw]
  · exact h
  · exact writeTarget_keeps_inv h ha ht

theorem transact_keeps_inv {tx : Transaction} {r : Reply} {s t : State} (h : s.Inv)
    (ht : transact tx s = .ok (r, t)) : t.Inv := by
  obtain ⟨a, -, -, rfl⟩ | ⟨a, d, -, -, rfl⟩ := transact_eq_ok ht
  · exact h
  · exact busWrite_keeps_inv a d h

/-! ### The invariant over a command -/

theorem quantPcmEffect_keeps_inv {depth : Nat} {s u : State} (h : s.Inv)
    (hu : quantPcmEffect depth s = .ok u) : u.Inv := by
  obtain ⟨hcap, xs, hxs, rfl⟩ := quantPcmEffect_eq_ok hu
  exact inv_storeSymbols h (by simp [sampleOperand_length hxs]) hcap

/-- QUANT.DM needs no capacity check: SAMP_LEN ≤ SAMP_CAP ≤ SYM_CAP (R6, R106). -/
theorem quantDmEffect_keeps_inv {s u : State} (h : s.Inv) (hu : quantDmEffect s = .ok u) : u.Inv := by
  obtain ⟨xs, hxs, rfl⟩ := quantDmEffect_eq_ok hu
  have ⟨hp, hsamp, _⟩ := h
  have hcaps : s.params.sampCap ≤ s.params.symCap := by
    simp only [Params.wf, Bool.and_eq_true, decide_eq_true_eq] at hp
    omega
  exact inv_storeSymbols h (by simp [sampleOperand_length hxs]) (Nat.le_trans hsamp hcaps)

/-- Two cells for each bit fit VOLT, since VOLT_CAP = 2 · SYM_CAP (R6, R120). -/
theorem encodeEffect_keeps_inv {kind : VKind} {emit : List Bool → List Trit} {s u : State} (h : s.Inv)
    (hemit : ∀ bits, (emit bits).length ≤ 2 * bits.length) (hu : encodeEffect kind emit s = .ok u) :
    u.Inv := by
  obtain ⟨bits, hbits, rfl⟩ := encodeEffect_eq_ok hu
  have ⟨_, _, hsym, _⟩ := h
  refine inv_storeVoltages kind h ?_
  calc (emit bits).length ≤ 2 * bits.length := hemit bits
    _ = 2 * s.symLen := by rw [bitStringOperand_length hbits]
    _ ≤ s.params.voltCap := Nat.mul_le_mul_left 2 hsym

theorem scrambleEffect_keeps_inv {kind : VKind} {scan : List Trit → List Trit} {s u : State} (h : s.Inv)
    (hscan : ∀ v, (scan v).length = v.length) (hu : scrambleEffect kind scan s = .ok u) : u.Inv := by
  obtain ⟨-, v, hv, rfl⟩ := scrambleEffect_eq_ok hu
  have ⟨_, _, _, hvolt, _⟩ := h
  exact inv_storeScrambled kind h (by rw [hscan, voltageOperand_length hv]; exact hvolt)

theorem anaPalEffect_keeps_inv {s u : State} (h : s.Inv) (hu : anaPalEffect s = .ok u) : u.Inv := by
  obtain ⟨bits, hbits, rfl⟩ := anaPalEffect_eq_ok hu
  exact inv_storePalindrome h (bitStringOperand_length hbits ▸ longestPal_fits bits)

theorem anaZrunEffect_keeps_inv {s u : State} (h : s.Inv) (hu : anaZrunEffect s = .ok u) : u.Inv := by
  obtain ⟨v, hv, rfl⟩ := anaZrunEffect_eq_ok hu
  exact inv_storeZeroRun h (voltageOperand_length hv ▸ longestZeroRun_fits v)

/-- A command keeps the invariant if its successful effect does; an error changes only STATUS (R182). -/
theorem conclude_keeps_inv {r : Except Abort State} {s t : State} (h : s.Inv)
    (hr : ∀ u, r = .ok u → u.Inv) (ht : conclude s r = .next t) : t.Inv := by
  obtain ⟨u, hu, rfl⟩ | ⟨e, -, rfl⟩ := conclude_eq_next.1 ht
  · exact inv_complete (hr u hu)
  · exact inv_raiseCmdError e h

theorem exec_keeps_inv {i : Instr} {s t : State} (h : s.Inv) (ht : exec i s = .next t) : t.Inv := by
  cases i with
  | quantPcm depth => exact conclude_keeps_inv h (fun _ => quantPcmEffect_keeps_inv h) ht
  | quantDm => exact conclude_keeps_inv h (fun _ => quantDmEffect_keeps_inv h) ht
  | encNrzl =>
    exact conclude_keeps_inv h (fun _ => encodeEffect_keeps_inv h fun b => (emitNrzl_length b).trans_le (by omega)) ht
  | encNrzi =>
    exact conclude_keeps_inv h (fun _ => encodeEffect_keeps_inv h fun b => (emitNrzi_length _ b).trans_le (by omega)) ht
  | encMan => exact conclude_keeps_inv h (fun _ => encodeEffect_keeps_inv h fun b => (emitMan_length b).le) ht
  | encDman => exact conclude_keeps_inv h (fun _ => encodeEffect_keeps_inv h fun b => (emitDman_length _ b).le) ht
  | encAmi =>
    exact conclude_keeps_inv h (fun _ => encodeEffect_keeps_inv h fun b => (emitAmi_length _ b).trans_le (by omega)) ht
  | scrB8zs => exact conclude_keeps_inv h (fun _ => scrambleEffect_keeps_inv h b8zs_length) ht
  | scrHdb3 => exact conclude_keeps_inv h (fun _ => scrambleEffect_keeps_inv h hdb3_length) ht
  | anaPal => exact conclude_keeps_inv h (fun _ => anaPalEffect_keeps_inv h) ht
  | anaZrun => exact conclude_keeps_inv h (fun _ => anaZrunEffect_keeps_inv h) ht

/-! ### The invariant over a turn -/

theorem engineStep_keeps_inv {s t : State} (h : s.Inv) (ht : engineStep s = .next t) : t.Inv := by
  obtain ⟨e, -, rfl⟩ | ⟨i, -, hi⟩ := engineStep_eq_next ht
  · exact inv_raiseCmdError _ h
  · exact exec_keeps_inv h hi

/-- A reset leaves the reset state of the same parameters, whatever the host issues during it (R210). -/
theorem resetTurn_keeps_inv {s : State} (during : List Transaction) (rest : List EnvEvent) (h : s.Inv) :
    (resetTurn during rest s).Inv := by
  obtain ⟨o, d, hreset⟩ := observeDuringReset_eq during { resetBlock s with env := rest }
  rw [resetTurn, hreset]
  exact inv_resetOf h.1

theorem envStep_keeps_inv {s t : State} (h : s.Inv) (ht : envStep s = .next t) : t.Inv := by
  obtain ⟨-, rfl⟩ | ⟨tx, rest, r, s', -, htx, rfl⟩ | ⟨rest, r, -, -, rfl⟩ | ⟨during, rest, -, rfl⟩ :=
    envStep_eq_next ht
  · exact h
  · exact inv_observe tx r rest (transact_keeps_inv h htx)
  · exact inv_observe pollRead r _ h
  · exact resetTurn_keeps_inv during rest h

theorem step_keeps_inv {s t : State} (h : s.Inv) (ht : step s = .next t) : t.Inv := by
  obtain ⟨-, -, hs⟩ | ⟨-, -, hs⟩ | ⟨-, -, hs⟩ := step_eq s <;> rw [hs] at ht
  · exact engineStep_keeps_inv (inv_takeTurn h) ht
  · exact envStep_keeps_inv (inv_takeTurn h) ht
  · exact envStep_keeps_inv h ht

/-- Settles O55: every turn a step can be, the engine's, the host's or a reset's, keeps the invariant. -/
theorem everyStepKeepsTheInvariant : Obligations.EveryStepKeepsTheInvariant :=
  fun _ _ => step_keeps_inv

end Sys2Proof.Machine
end

section
/-! PROOFS. The host bus. The address map of R52 read backwards: each target has one address. Then what a read and a write do at
a target, while idle and while BUSY = 1 (R38, R50, R60), and the words a register read returns (R24, R25, R27, R28). -/

namespace Sys2Proof.Machine

open Sys2Proof.Statements

/-! ### The address of a target -/

/-- The byte offset of a register (R22). -/
def Reg.offset : Reg → Nat
  | .id => 0x000
  | .version => 0x004
  | .caps0 => 0x008
  | .caps1 => 0x00C
  | .cmd => 0x010
  | .status => 0x014
  | .vkind => 0x018
  | .sampLen => 0x020
  | .symLen => 0x024
  | .voltLen => 0x028
  | .palStart => 0x030
  | .palLen => 0x034
  | .zrStart => 0x038
  | .zrLen => 0x03C

theorem regAt_eq_some_iff {n : Nat} {r : Reg} : regAt n = some r ↔ n = r.offset := by
  constructor
  · intro h
    unfold regAt at h
    split at h <;> cases h <;> rfl
  · rintro rfl
    cases r <;> rfl

theorem Reg.offset_lt (r : Reg) : r.offset < 0x40 := by cases r <;> decide

theorem Reg.offset_mod_four (r : Reg) : r.offset % 4 = 0 := by cases r <;> rfl

/-- The byte address of a target (R22, R56, R57, R59). -/
def Target.byteAddr : Target → Nat
  | .reg r => r.offset
  | .sym k => 0x04000 + 4 * k
  | .volt k => 0x08000 + 4 * k
  | .samp k => 0x10000 + 4 * k

/-- The target exists: its cell is below the capacity (R53) and inside its buffer's region of the map (R52). -/
def Target.InMap (p : Params) : Target → Prop
  | .reg _ => True
  | .sym k => k < p.symCap ∧ k < 0x1000
  | .volt k => k < p.voltCap ∧ k < 0x2000
  | .samp k => k < p.sampCap ∧ k < 0x1000

/-- An address reaches a target exactly where the target exists and has that address. -/
theorem decodeAddr_eq_some_iff {p : Params} {a : BusAddr} {t : Target} :
    decodeAddr p a = some t ↔ t.InMap p ∧ a.toNat = t.byteAddr := by
  constructor
  · intro h
    unfold decodeAddr at h
    dsimp only at h
    split at h
    · cases h
    split at h
    · split at h
      · rename_i r hr
        cases h
        exact ⟨trivial, regAt_eq_some_iff.1 hr⟩
      · cases h
    split at h
    · rw [Option.ite_none_right_eq_some, Option.some.injEq] at h
      obtain ⟨hcap, rfl⟩ := h
      exact ⟨⟨hcap, by omega⟩, by simp only [Target.byteAddr]; omega⟩
    split at h
    · rw [Option.ite_none_right_eq_some, Option.some.injEq] at h
      obtain ⟨hcap, rfl⟩ := h
      exact ⟨⟨hcap, by omega⟩, by simp only [Target.byteAddr]; omega⟩
    split at h
    · rw [Option.ite_none_right_eq_some, Option.some.injEq] at h
      obtain ⟨hcap, rfl⟩ := h
      exact ⟨⟨hcap, by omega⟩, by simp only [Target.byteAddr]; omega⟩
    · cases h
  · rintro ⟨hmap, ha⟩
    unfold decodeAddr
    dsimp only
    cases t with
    | reg r =>
      have hlt := r.offset_lt
      have hmod := r.offset_mod_four
      have ha : a.toNat = r.offset := ha
      rw [if_neg (by omega), if_pos (by omega), regAt_eq_some_iff.2 ha]
    | sym k =>
      obtain ⟨hcap, hk⟩ := hmap
      have ha : a.toNat = 0x04000 + 4 * k := ha
      rw [if_neg (by omega), if_neg (by omega), if_pos (by omega),
        show (a.toNat - 0x04000) / 4 = k by omega, if_pos hcap]
    | volt k =>
      obtain ⟨hcap, hk⟩ := hmap
      have ha : a.toNat = 0x08000 + 4 * k := ha
      rw [if_neg (by omega), if_neg (by omega), if_neg (by omega), if_pos (by omega),
        show (a.toNat - 0x08000) / 4 = k by omega, if_pos hcap]
    | samp k =>
      obtain ⟨hcap, hk⟩ := hmap
      have ha : a.toNat = 0x10000 + 4 * k := ha
      rw [if_neg (by omega), if_neg (by omega), if_neg (by omega), if_neg (by omega), if_pos (by omega),
        show (a.toNat - 0x10000) / 4 = k by omega, if_pos hcap]

/-- The address of a register reaches it, whatever the parameters. -/
theorem decodeAddr_reg {p : Params} {a : BusAddr} (r : Reg) (ha : a.toNat = r.offset) :
    decodeAddr p a = some (.reg r) :=
  decodeAddr_eq_some_iff.2 ⟨trivial, ha⟩

/-- The capacities of legal parameters fit the regions of the map (R6, R52). -/
theorem caps_le_of_wf {p : Params} (h : p.wf = true) :
    p.symCap ≤ 0x1000 ∧ p.voltCap ≤ 0x2000 ∧ p.sampCap ≤ 0x1000 := by
  simp only [Params.wf, Bool.and_eq_true, decide_eq_true_eq] at h
  simp only [Params.voltCap]
  omega

theorem decodeAddr_symAddr {p : Params} {k : Nat} (hp : p.wf = true) (hk : k < p.symCap) :
    decodeAddr p (symAddr k) = some (.sym k) := by
  obtain ⟨hcap, -, -⟩ := caps_le_of_wf hp
  exact decodeAddr_eq_some_iff.2 ⟨⟨hk, by omega⟩, Nat.mod_eq_of_lt (by omega)⟩

theorem decodeAddr_voltAddr {p : Params} {k : Nat} (hp : p.wf = true) (hk : k < p.voltCap) :
    decodeAddr p (voltAddr k) = some (.volt k) := by
  obtain ⟨-, hcap, -⟩ := caps_le_of_wf hp
  exact decodeAddr_eq_some_iff.2 ⟨⟨hk, by omega⟩, Nat.mod_eq_of_lt (by omega)⟩

theorem decodeAddr_sampAddr {p : Params} {k : Nat} (hp : p.wf = true) (hk : k < p.sampCap) :
    decodeAddr p (sampAddr k) = some (.samp k) := by
  obtain ⟨-, -, hcap⟩ := caps_le_of_wf hp
  exact decodeAddr_eq_some_iff.2 ⟨⟨hk, by omega⟩, Nat.mod_eq_of_lt (by omega)⟩

/-! ### A read -/

theorem busRead_idle {s : State} {a : BusAddr} {t : Target} (hb : s.busy = false)
    (ht : decodeAddr s.params a = some t) : busRead a s = readTarget t s := by
  simp [busRead, ht, hb]

theorem busRead_reg_idle {s : State} {a : BusAddr} (r : Reg) (hb : s.busy = false) (ha : a.toNat = r.offset) :
    busRead a s = .ok (okayReply (readReg r s)) :=
  busRead_idle hb (decodeAddr_reg r ha)

/-- The registers of R38 are read the same way busy and idle. -/
theorem busRead_readable {s : State} {a : BusAddr} {r : Reg} (hr : readableWhileBusy r = true)
    (ha : a.toNat = r.offset) : busRead a s = .ok (okayReply (readReg r s)) := by
  cases hb : s.busy with
  | false => exact busRead_reg_idle r hb ha
  | true => simp [busRead, decodeAddr_reg r ha, hb, readTargetBusy, hr]

/-- While BUSY = 1 a read of anything but the registers of R38 is a BUSERR with data 0. -/
theorem busRead_blocked {s : State} {a : BusAddr} (hb : s.busy = true)
    (ha : ∀ r, readableWhileBusy r = true → a.toNat ≠ r.offset) : busRead a s = .ok busErrorReply := by
  unfold busRead
  cases ht : decodeAddr s.params a with
  | none => rfl
  | some t =>
    cases t with
    | reg r =>
      have hr : readableWhileBusy r = false := by
        rw [Bool.eq_false_iff]
        exact fun hr => ha r hr (decodeAddr_eq_some_iff.1 ht).2
      simp [hb, readTargetBusy, hr]
    | sym k => simp [hb, readTargetBusy]
    | volt k => simp [hb, readTargetBusy]
    | samp k => simp [hb, readTargetBusy]

/-- The addresses of the registers of R38. -/
theorem readable_offset_iff {n : Nat} :
    (∃ r, readableWhileBusy r = true ∧ n = r.offset) ↔ n ∈ [0x0, 0x4, 0x8, 0xC, 0x14] := by
  constructor
  · rintro ⟨r, hr, rfl⟩
    revert hr
    cases r <;> decide
  · intro h
    simp only [List.mem_cons, List.not_mem_nil, or_false] at h
    obtain rfl | rfl | rfl | rfl | rfl := h
    · exact ⟨.id, rfl, rfl⟩
    · exact ⟨.version, rfl, rfl⟩
    · exact ⟨.caps0, rfl, rfl⟩
    · exact ⟨.caps1, rfl, rfl⟩
    · exact ⟨.status, rfl, rfl⟩

/-! ### A write -/

theorem busWrite_busy {s : State} (a : BusAddr) (d : Word) (hb : s.busy = true) :
    busWrite a d s = (.busErr, s) := by
  obtain hw | ⟨_, _, _, hidle, _⟩ := busWrite_cases a d s
  · exact hw
  · rw [hb] at hidle
    cases hidle

theorem busWrite_idle {s : State} {a : BusAddr} {t : Target} (d : Word) (hb : s.busy = false)
    (ht : decodeAddr s.params a = some t) :
    busWrite a d s = (writeTarget t d s).elim (.busErr, s) (fun s' => (.okay, s')) := by
  simp only [busWrite, ht, hb]
  cases writeTarget t d s <;> rfl

/-- A length register stores a value that passes its check `c`, and refuses any other. -/
theorem busWrite_reg_checked {s s' : State} {a : BusAddr} {d : Word} {c : Prop} [Decidable c] (r : Reg)
    (hb : s.busy = false) (ha : a.toNat = r.offset) (hw : writeReg r d s = if c then some s' else none) :
    busWrite a d s = if c then (.okay, s') else (.busErr, s) := by
  rw [busWrite_idle d hb (decodeAddr_reg r ha), writeTarget, hw]
  split <;> rfl

/-- A write of this target makes VKIND HOST (R28): VOLT_LEN and the VOLT cells. -/
def Target.IsVolt : Target → Prop
  | .reg r => r = .voltLen
  | .sym _ => False
  | .volt _ => True
  | .samp _ => False

theorem Target.isVolt_iff {p : Params} {t : Target} (h : t.InMap p) :
    t.IsVolt ↔ t.byteAddr = 0x28 ∨ (0x8000 ≤ t.byteAddr ∧ t.byteAddr < 0x10000) := by
  cases t with
  | reg r =>
    have hlt := r.offset_lt
    have hreg : r = .voltLen ↔ r.offset = 0x28 := by cases r <;> decide
    simp only [Target.IsVolt, Target.byteAddr, hreg]
    omega
  | sym k =>
    obtain ⟨-, hk⟩ := h
    exact iff_of_false id (by simp only [Target.byteAddr]; omega)
  | volt k =>
    obtain ⟨-, hk⟩ := h
    exact iff_of_true trivial (by simp only [Target.byteAddr]; omega)
  | samp k => exact iff_of_false id (by simp only [Target.byteAddr]; omega)

theorem writeReg_vkind {r : Reg} {d : Word} {s t : State} (h : writeReg r d s = some t) :
    (r = .voltLen → t.vkind = .host) ∧ (r ≠ .voltLen → t.vkind = s.vkind) := by
  cases r <;> simp only [writeReg, Option.ite_none_right_eq_some, Option.some.injEq, reduceCtorEq] at h
  case cmd => subst h; simp
  case sampLen => obtain ⟨-, rfl⟩ := h; simp
  case symLen => obtain ⟨-, rfl⟩ := h; simp
  case voltLen => obtain ⟨-, rfl⟩ := h; simp

/-- A write that is taken makes VKIND HOST where it reaches VOLT or VOLT_LEN, and keeps it elsewhere (R28, R58). -/
theorem writeTarget_vkind {tgt : Target} {d : Word} {s t : State} (h : writeTarget tgt d s = some t) :
    (tgt.IsVolt → t.vkind = .host) ∧ (¬tgt.IsVolt → t.vkind = s.vkind) := by
  cases tgt with
  | reg r => exact writeReg_vkind h
  | sym k => cases h; exact ⟨False.elim, fun _ => rfl⟩
  | volt k =>
    simp only [writeTarget] at h
    split at h
    · cases h; exact ⟨fun _ => rfl, fun hn => (hn trivial).elim⟩
    · cases h
  | samp k => cases h; exact ⟨False.elim, fun _ => rfl⟩

theorem busWrite_vkind (a : BusAddr) (d : Word) (s : State) :
    (busWrite a d s).2.vkind =
      if (busWrite a d s).1 = .okay ∧ (a.toNat = 0x28 ∨ (0x8000 ≤ a.toNat ∧ a.toNat < 0x10000))
      then .host else s.vkind := by
  obtain hw | ⟨tgt, t, ha, -, ht, hw⟩ := busWrite_cases a d s <;> rw [hw]
  · simp
  · obtain ⟨hmap, haddr⟩ := decodeAddr_eq_some_iff.1 ha
    obtain ⟨hhost, hkeep⟩ := writeTarget_vkind ht
    have hvolt := Target.isVolt_iff hmap
    rw [← haddr] at hvolt
    by_cases hv : tgt.IsVolt
    · rw [if_pos ⟨rfl, hvolt.1 hv⟩]
      exact hhost hv
    · rw [if_neg fun h => hv (hvolt.2 h.2)]
      exact hkeep hv

/-! ### The words of the constant and status registers -/

/-- Two fields side by side are one number in base `2 ^ n`. -/
theorem ofNat_append_ofNat {m n x y : Nat} (hx : x < 2 ^ m) (hy : y < 2 ^ n) :
    BitVec.ofNat m x ++ BitVec.ofNat n y = BitVec.ofNat (m + n) (x * 2 ^ n + y) := by
  have hlt : x * 2 ^ n + y < 2 ^ (m + n) := by
    calc x * 2 ^ n + y < x * 2 ^ n + 2 ^ n := by omega
      _ = (x + 1) * 2 ^ n := (Nat.succ_mul x _).symm
      _ ≤ 2 ^ m * 2 ^ n := Nat.mul_le_mul_right _ hx
      _ = 2 ^ (m + n) := (Nat.pow_add 2 m n).symm
  apply BitVec.eq_of_toNat_eq
  rw [BitVec.toNat_append, BitVec.toNat_ofNat, BitVec.toNat_ofNat, BitVec.toNat_ofNat, Nat.mod_eq_of_lt hx,
    Nat.mod_eq_of_lt hy, Nat.mod_eq_of_lt hlt, ← Nat.shiftLeft_add_eq_or_of_lt hy, Nat.shiftLeft_eq]

theorem caps0Word_eq {p : Params} (h : p.wf = true) :
    caps0Word p = BitVec.ofNat 32 (p.sampCap * 2 ^ 16 + p.symCap) := by
  obtain ⟨hsym, -, hsamp⟩ := caps_le_of_wf h
  exact ofNat_append_ofNat (by omega) (by omega)

theorem caps1Word_eq {p : Params} (h : p.wf = true) :
    caps1Word p = BitVec.ofNat 32 (p.sampleFracBits * 2 ^ 8 + p.pcmMaxDepth) := by
  simp only [Params.wf, Bool.and_eq_true, decide_eq_true_eq] at h
  obtain ⟨⟨⟨-, hdepth⟩, -⟩, hfrac⟩ := h
  unfold caps1Word
  rw [ofNat_append_ofNat (by omega) (by omega), ofNat_append_ofNat (by omega) (by omega),
    ofNat_append_ofNat (by omega) (by omega)]
  congr 1
  omega

theorem statusWord_eq (s : State) :
    statusWord s = BitVec.ofNat 32 ((if s.busy then 1 else 0) + 2 ^ 8 * errNumber s.err) := by
  unfold statusWord
  cases s.err <;> cases s.busy <;> rfl

theorem vkindWord_eq (s : State) : vkindWord s = BitVec.ofNat 32 (kindNumber s.vkind) := by
  unfold vkindWord
  cases s.vkind <;> rfl

/-! ### The obligations on the bus -/

/-- Settles O38: each is a register of R38, read the same way busy and idle. -/
theorem constantRegistersRead : Obligations.ConstantRegistersRead := by
  intro s
  have hcaps0 : busRead 0x00008#17 s = .ok (okayReply (caps0Word s.params)) :=
    busRead_readable (r := .caps0) rfl rfl
  have hcaps1 : busRead 0x0000C#17 s = .ok (okayReply (caps1Word s.params)) :=
    busRead_readable (r := .caps1) rfl rfl
  refine ⟨busRead_readable (r := .id) rfl rfl, busRead_readable (r := .version) rfl rfl, fun hp => ?_, fun hp => ?_⟩
  · rw [hcaps0, hcaps1, caps0Word_eq hp, caps1Word_eq hp]
    exact ⟨rfl, rfl⟩
  · rw [hcaps0, hcaps1, hp]
    exact ⟨rfl, rfl⟩

/-- Settles O39: STATUS is a register of R38, and its fields side by side are one number. -/
theorem statusReadsBusyAndErr : Obligations.StatusReadsBusyAndErr := by
  intro s
  rw [← statusWord_eq]
  exact busRead_readable (r := .status) rfl rfl

/-- Settles O40: an idle read of a register answers its value. -/
theorem idleRegistersRead : Obligations.IdleRegistersRead := fun _ hb =>
  ⟨busRead_reg_idle .cmd hb rfl, busRead_reg_idle .sampLen hb rfl, busRead_reg_idle .symLen hb rfl,
    busRead_reg_idle .voltLen hb rfl, busRead_reg_idle .palStart hb rfl, busRead_reg_idle .palLen hb rfl,
    busRead_reg_idle .zrStart hb rfl, busRead_reg_idle .zrLen hb rfl⟩

/-- Settles O42: each length register has its own check. -/
theorem lengthWritesAreChecked : Obligations.LengthWritesAreChecked := fun _ _ hb =>
  ⟨busWrite_reg_checked .sampLen hb rfl rfl, busWrite_reg_checked .symLen hb rfl rfl,
    busWrite_reg_checked .voltLen hb rfl rfl⟩

/-- Settles O47: the registers of R38 do not depend on BUSY, STATUS apart; everything else is blocked. -/
theorem busyBlocksTheHost : Obligations.BusyBlocksTheHost := by
  intro s hb
  have hsame (a : BusAddr) (r : Reg) (hr : readableWhileBusy r = true)
      (hread : readReg r { s with busy := false } = readReg r s) (ha : a.toNat = r.offset) :
      busRead a s = busRead a { s with busy := false } := by
    rw [busRead_readable hr ha, busRead_readable hr ha, hread]
  refine ⟨?_, busRead_readable (r := .status) rfl rfl, ?_, fun a d => busWrite_busy a d hb⟩
  · rintro a (ha | ha | ha | ha)
    · exact hsame a .id rfl rfl ha
    · exact hsame a .version rfl rfl ha
    · exact hsame a .caps0 rfl rfl ha
    · exact hsame a .caps1 rfl rfl ha
  · intro a h0 h4 h8 hC h14
    refine busRead_blocked hb fun r hr ha => ?_
    have hmem := readable_offset_iff.1 ⟨r, hr, ha⟩
    simp [h0, h4, h8, hC, h14] at hmem

end Sys2Proof.Machine
end

section
/-! PROOFS. What a command changes, and where it stops. Every command is the conclusion of its effect; the effect makes one of
five kinds of writes, or ends with an error code, or meets an unwritten cell (R81, R182, U1). -/

namespace Sys2Proof.Machine

open Sys2Proof.Statements

/-! ### The effect of a command -/

/-- A command up to its completion: the state with its writes made, or how it is ended before them. -/
def commandEffect (i : Instr) (s : State) : Except Abort State :=
  match i with
  | .quantPcm depth => quantPcmEffect depth s
  | .quantDm => quantDmEffect s
  | .encNrzl => encodeEffect .nrzl emitNrzl s
  | .encNrzi => encodeEffect .nrzi (emitNrzi .minus) s
  | .encMan => encodeEffect .man emitMan s
  | .encDman => encodeEffect .dman (emitDman .minus) s
  | .encAmi => encodeEffect .ami (emitAmi .plus) s
  | .scrB8zs => scrambleEffect .amiB8zs b8zs s
  | .scrHdb3 => scrambleEffect .amiHdb3 hdb3 s
  | .anaPal => anaPalEffect s
  | .anaZrun => anaZrunEffect s

theorem exec_eq_conclude_effect (i : Instr) (s : State) : exec i s = conclude s (commandEffect i s) := by
  cases i <;> rfl

/-- A command goes on to its writes completed, or to its error. -/
theorem exec_eq_next {i : Instr} {s t : State} (h : exec i s = .next t) :
    (∃ u, commandEffect i s = .ok u ∧ t = complete u) ∨ ∃ e, t = raiseCmdError e s := by
  rw [exec_eq_conclude_effect] at h
  obtain hok | ⟨e, -, rfl⟩ := conclude_eq_next.1 h
  · exact .inl hok
  · exact .inr ⟨e, rfl⟩

theorem exec_eq_fault_iff {i : Instr} {s : State} {f : Fault} :
    exec i s = .fault f ↔ commandEffect i s = .error (.fault f) := by
  rw [exec_eq_conclude_effect, conclude_eq_fault]

theorem exec_ne_refused (i : Instr) (s : State) (q : Refusal) : exec i s ≠ .refused q := by
  rw [exec_eq_conclude_effect]
  exact conclude_ne_refused

/-- What a successful command writes, with the kind its row of R28 gives. -/
theorem commandEffect_eq_ok {i : Instr} {s u : State} (h : commandEffect i s = .ok u) :
    (∃ bytes n, kindAfter i s.vkind = s.vkind ∧ u = storeSymbols bytes n s)
      ∨ (∃ out, u = storeVoltages (kindAfter i s.vkind) out s)
      ∨ (∃ out, u = storeScrambled (kindAfter i s.vkind) out s)
      ∨ (∃ r, i = .anaPal ∧ u = storePalindrome r s)
      ∨ (∃ r, i = .anaZrun ∧ u = storeZeroRun r s) := by
  have encode {kind emit} (hu : encodeEffect kind emit s = .ok u) : ∃ out, u = storeVoltages kind out s := by
    obtain ⟨bits, -, rfl⟩ := encodeEffect_eq_ok hu
    exact ⟨_, rfl⟩
  have scramble {kind scan} (hu : scrambleEffect kind scan s = .ok u) : ∃ out, u = storeScrambled kind out s := by
    obtain ⟨-, v, -, rfl⟩ := scrambleEffect_eq_ok hu
    exact ⟨_, rfl⟩
  cases i with
  | quantPcm depth =>
    obtain ⟨-, xs, -, rfl⟩ := quantPcmEffect_eq_ok h
    exact .inl ⟨_, _, rfl, rfl⟩
  | quantDm =>
    obtain ⟨xs, -, rfl⟩ := quantDmEffect_eq_ok h
    exact .inl ⟨_, _, rfl, rfl⟩
  | encNrzl => exact .inr (.inl (encode h))
  | encNrzi => exact .inr (.inl (encode h))
  | encMan => exact .inr (.inl (encode h))
  | encDman => exact .inr (.inl (encode h))
  | encAmi => exact .inr (.inl (encode h))
  | scrB8zs => exact .inr (.inr (.inl (scramble h)))
  | scrHdb3 => exact .inr (.inr (.inl (scramble h)))
  | anaPal =>
    obtain ⟨bits, -, rfl⟩ := anaPalEffect_eq_ok h
    exact .inr (.inr (.inr (.inl ⟨_, rfl, rfl⟩)))
  | anaZrun =>
    obtain ⟨v, -, rfl⟩ := anaZrunEffect_eq_ok h
    exact .inr (.inr (.inr (.inr ⟨_, rfl, rfl⟩)))

theorem CmdError.code_ne_ok (e : CmdError) : e.code ≠ .ok := by cases e <;> decide

/-- R28: a successful command leaves the kind of its row, a failed one the kind it found. -/
theorem exec_vkind {i : Instr} {s t : State} (h : exec i s = .next t) :
    t.vkind = if t.err = .ok then kindAfter i s.vkind else s.vkind := by
  obtain ⟨u, hu, rfl⟩ | ⟨e, rfl⟩ := exec_eq_next h
  · rw [complete_err, if_pos rfl, complete_vkind]
    obtain ⟨bytes, n, hkind, rfl⟩ | ⟨out, rfl⟩ | ⟨out, rfl⟩ | ⟨r, rfl, rfl⟩ | ⟨r, rfl, rfl⟩ := commandEffect_eq_ok hu
    · exact hkind.symm
    · rfl
    · rfl
    · rfl
    · rfl
  · rw [raiseCmdError_err, if_neg e.code_ne_ok, raiseCmdError_vkind]

/-- Settles O33: none of the five kinds of writes, nor a completion or an error, touches these fields. -/
theorem commandsKeepCmdAndSamples : Obligations.CommandsKeepCmdAndSamples := by
  intro i s t h
  obtain ⟨u, hu, rfl⟩ | ⟨e, rfl⟩ := exec_eq_next h
  · obtain ⟨bytes, n, -, rfl⟩ | ⟨out, rfl⟩ | ⟨out, rfl⟩ | ⟨r, -, rfl⟩ | ⟨r, -, rfl⟩ := commandEffect_eq_ok hu <;> simp
  · simp

/-- Settles O35: the writes of commands, the host's writes, reset and the read, each by its own lemma. -/
theorem vkindRecordsProvenance : Obligations.VkindRecordsProvenance := by
  refine ⟨fun _ _ _ => exec_vkind, busWrite_vkind, resetBlock_vkind, fun s hb => ?_⟩
  rw [← vkindWord_eq]
  exact busRead_reg_idle .vkind hb rfl

/-! ### Where reading an operand stops -/

theorem bitOf_of_symbol {c : Byte} (h : c = 0x30#8 ∨ c = 0x31#8) : ∃ b, bitOf c = some b := by
  obtain rfl | rfl := h
  · exact ⟨false, rfl⟩
  · exact ⟨true, rfl⟩

/-- Cells from `k` on of which the first `d` are symbols and the next is unwritten (R11, R120). -/
theorem readBits_unwritten {m : Cells Byte} {n k d : Nat} (hd : d < n)
    (hsym : ∀ j, j < d → readCell m (k + j) = some 0x30#8 ∨ readCell m (k + j) = some 0x31#8)
    (hnone : readCell m (k + d) = none) : readBits m k n = .error (.fault (.unwrittenSym (k + d))) := by
  induction d generalizing k n with
  | zero =>
    obtain ⟨n, rfl⟩ : ∃ n', n = n' + 1 := ⟨n - 1, by omega⟩
    rw [readBits, show readCell m k = none from hnone]
    rfl
  | succ d ih =>
    obtain ⟨n, rfl⟩ : ∃ n', n = n' + 1 := ⟨n - 1, by omega⟩
    have shift (j : Nat) : k + 1 + j = k + (j + 1) := by omega
    have hrest := ih (n := n) (k := k + 1) (by omega) (fun j hj => by rw [shift]; exact hsym (j + 1) (by omega))
      (by rw [shift]; exact hnone)
    obtain ⟨c, hc, hcsym⟩ : ∃ c, readCell m k = some c ∧ (c = 0x30#8 ∨ c = 0x31#8) := by
      obtain h | h := hsym 0 (by omega)
      · exact ⟨_, h, .inl rfl⟩
      · exact ⟨_, h, .inr rfl⟩
    obtain ⟨b, hb⟩ := bitOf_of_symbol hcsym
    simp only [readBits, hc, hb, hrest, shift]

/-- Cells from `k` on of which the first `d` are written and the next is not. -/
theorem readCells_unwritten {α : Type} {m : Cells α} {n k d : Nat} (hd : d < n)
    (hsome : ∀ j, j < d → (readCell m (k + j)).isSome = true) (hnone : readCell m (k + d) = none) :
    readCells m k n = .error (k + d) := by
  induction d generalizing k n with
  | zero =>
    obtain ⟨n, rfl⟩ : ∃ n', n = n' + 1 := ⟨n - 1, by omega⟩
    rw [readCells, show readCell m k = none from hnone]
    rfl
  | succ d ih =>
    obtain ⟨n, rfl⟩ : ∃ n', n = n' + 1 := ⟨n - 1, by omega⟩
    have shift (j : Nat) : k + 1 + j = k + (j + 1) := by omega
    have hrest := ih (n := n) (k := k + 1) (by omega) (fun j hj => by rw [shift]; exact hsome (j + 1) (by omega))
      (by rw [shift]; exact hnone)
    obtain ⟨x, hx⟩ := Option.isSome_iff_exists.1 (hsome 0 (by omega))
    simp only [Nat.add_zero] at hx
    simp only [readCells, hx, hrest, shift]

theorem bitStringOperand_unwritten {s : State} {k : Nat} (hk : k < s.symLen)
    (hsym : ∀ j, j < k → readCell s.mem.sym j = some 0x30#8 ∨ readCell s.mem.sym j = some 0x31#8)
    (hnone : readCell s.mem.sym k = none) : bitStringOperand s = .error (.fault (.unwrittenSym k)) := by
  have h := readBits_unwritten (m := s.mem.sym) (k := 0) hk (by simpa using hsym) (by simpa using hnone)
  rw [bitStringOperand, if_neg (by omega), h, Nat.zero_add]

theorem voltageOperand_unwritten {s : State} {k : Nat} (hk : k < s.voltLen)
    (hsome : ∀ j, j < k → (readCell s.mem.volt j).isSome = true) (hnone : readCell s.mem.volt k = none) :
    voltageOperand s = .error (.fault (.unwrittenVolt k)) := by
  have h := readCells_unwritten (m := s.mem.volt) (k := 0) hk (by simpa using hsome) (by simpa using hnone)
  simp [voltageOperand, h]

theorem sampleOperand_unwritten {s : State} {k : Nat} (hk : k < s.sampLen)
    (hsome : ∀ j, j < k → (readCell s.mem.samp j).isSome = true) (hnone : readCell s.mem.samp k = none) :
    sampleOperand s = .error (.fault (.unwrittenSamp k)) := by
  have h := readCells_unwritten (m := s.mem.samp) (k := 0) hk (by simpa using hsome) (by simpa using hnone)
  simp [sampleOperand, h]

/-! ### Where a command stops -/

theorem encodeEffect_eq_fault_iff {kind : VKind} {emit : List Bool → List Trit} {s : State} {f : Fault} :
    encodeEffect kind emit s = .error (.fault f) ↔ bitStringOperand s = .error (.fault f) := by
  unfold encodeEffect
  cases bitStringOperand s <;> simp

theorem anaPalEffect_eq_fault_iff {s : State} {f : Fault} :
    anaPalEffect s = .error (.fault f) ↔ bitStringOperand s = .error (.fault f) := by
  unfold anaPalEffect
  cases bitStringOperand s <;> simp

theorem anaZrunEffect_eq_fault_iff {s : State} {f : Fault} :
    anaZrunEffect s = .error (.fault f) ↔ voltageOperand s = .error (.fault f) := by
  unfold anaZrunEffect
  cases voltageOperand s <;> simp

/-- A scrambler reads the sequence only past its check of VKIND (R140). -/
theorem scrambleEffect_eq_fault_iff {kind : VKind} {scan : List Trit → List Trit} {s : State} {f : Fault} :
    scrambleEffect kind scan s = .error (.fault f) ↔ s.vkind = .ami ∧ voltageOperand s = .error (.fault f) := by
  unfold scrambleEffect
  split
  · simp_all
  · cases voltageOperand s <;> simp_all

/-- QUANT.DM reads the samples only past its check of SAMP_LEN (R106). -/
theorem quantDmEffect_eq_fault_iff {s : State} {f : Fault} :
    quantDmEffect s = .error (.fault f) ↔ s.sampLen ≠ 0 ∧ sampleOperand s = .error (.fault f) := by
  unfold quantDmEffect
  split
  · simp_all
  · cases sampleOperand s <;> simp_all

/-- QUANT.PCM reads the samples only past its three checks (R183). -/
theorem quantPcmEffect_eq_fault_iff {depth : Nat} {s : State} {f : Fault} :
    quantPcmEffect depth s = .error (.fault f) ↔
      s.sampLen ≠ 0 ∧ (1 ≤ depth ∧ depth ≤ s.params.pcmMaxDepth) ∧ s.sampLen * depth ≤ s.params.symCap
        ∧ sampleOperand s = .error (.fault f) := by
  unfold quantPcmEffect
  split
  · simp_all
  split
  · have hdepth : ¬(1 ≤ depth ∧ depth ≤ s.params.pcmMaxDepth) := by omega
    simp [hdepth]
  split
  · have hcap : ¬s.sampLen * depth ≤ s.params.symCap := by omega
    simp [hcap]
  · have hdepth : 1 ≤ depth ∧ depth ≤ s.params.pcmMaxDepth := by omega
    have hcap : s.sampLen * depth ≤ s.params.symCap := by omega
    cases sampleOperand s <;> simp_all

/-- Settles O36: an operand's reading stops at its first unwritten cell, and the command or host read with it. -/
theorem unwrittenCellsFault : Obligations.UnwrittenCellsFault := by
  refine ⟨?_, ?_, ?_, ?_⟩
  · intro i k s hi hk hsym hnone
    have hread := bitStringOperand_unwritten hk hsym hnone
    rw [exec_eq_fault_iff]
    obtain rfl | rfl | rfl | rfl | rfl | rfl := hi
    · exact encodeEffect_eq_fault_iff.2 hread
    · exact encodeEffect_eq_fault_iff.2 hread
    · exact encodeEffect_eq_fault_iff.2 hread
    · exact encodeEffect_eq_fault_iff.2 hread
    · exact encodeEffect_eq_fault_iff.2 hread
    · exact anaPalEffect_eq_fault_iff.2 hread
  · intro i k s hi hk hsome hnone
    have hread := voltageOperand_unwritten hk hsome hnone
    rw [exec_eq_fault_iff]
    obtain rfl | ⟨rfl | rfl, hkind⟩ := hi
    · exact anaZrunEffect_eq_fault_iff.2 hread
    · exact scrambleEffect_eq_fault_iff.2 ⟨hkind, hread⟩
    · exact scrambleEffect_eq_fault_iff.2 ⟨hkind, hread⟩
  · intro i k s hi hk hsome hnone
    have hread := sampleOperand_unwritten hk hsome hnone
    have hlen : s.sampLen ≠ 0 := by omega
    rw [exec_eq_fault_iff]
    obtain rfl | ⟨depth, rfl, hpos, hmax, hcap⟩ := hi
    · exact quantDmEffect_eq_fault_iff.2 ⟨hlen, hread⟩
    · exact quantPcmEffect_eq_fault_iff.2 ⟨hlen, ⟨hpos, hmax⟩, hcap, hread⟩
  · intro k s hp hb
    refine ⟨fun hk hnone => ?_, fun hk hnone => ?_, fun hk hnone => ?_⟩
    · have hread := busRead_idle hb (decodeAddr_symAddr hp hk)
      rwa [readTarget, hnone] at hread
    · have hread := busRead_idle hb (decodeAddr_voltAddr hp hk)
      rwa [readTarget, hnone] at hread
    · have hread := busRead_idle hb (decodeAddr_sampAddr hp hk)
      rwa [readTarget, hnone] at hread

/-! ### A fault names an unwritten cell -/

theorem bitStringOperand_fault_unwritten {s : State} {f : Fault} (h : bitStringOperand s = .error (.fault f)) :
    FaultNamesUnwritten f s := by
  unfold bitStringOperand at h
  split at h
  · cases h
  · obtain ⟨j, rfl, hnone, -⟩ := readBits_eq_fault h
    exact hnone

theorem voltageOperand_fault_unwritten {s : State} {f : Fault} (h : voltageOperand s = .error (.fault f)) :
    FaultNamesUnwritten f s := by
  unfold voltageOperand at h
  split at h
  · rename_i k hk
    cases h
    exact (readCells_eq_error hk).1
  · cases h

theorem sampleOperand_fault_unwritten {s : State} {f : Fault} (h : sampleOperand s = .error (.fault f)) :
    FaultNamesUnwritten f s := by
  unfold sampleOperand at h
  split at h
  · rename_i k hk
    cases h
    exact (readCells_eq_error hk).1
  · cases h

theorem exec_fault_unwritten {i : Instr} {s : State} {f : Fault} (h : exec i s = .fault f) :
    FaultNamesUnwritten f s := by
  rw [exec_eq_fault_iff] at h
  cases i with
  | quantPcm depth =>
    obtain ⟨-, -, -, hread⟩ := quantPcmEffect_eq_fault_iff.1 h
    exact sampleOperand_fault_unwritten hread
  | quantDm => exact sampleOperand_fault_unwritten (quantDmEffect_eq_fault_iff.1 h).2
  | encNrzl => exact bitStringOperand_fault_unwritten (encodeEffect_eq_fault_iff.1 h)
  | encNrzi => exact bitStringOperand_fault_unwritten (encodeEffect_eq_fault_iff.1 h)
  | encMan => exact bitStringOperand_fault_unwritten (encodeEffect_eq_fault_iff.1 h)
  | encDman => exact bitStringOperand_fault_unwritten (encodeEffect_eq_fault_iff.1 h)
  | encAmi => exact bitStringOperand_fault_unwritten (encodeEffect_eq_fault_iff.1 h)
  | scrB8zs => exact voltageOperand_fault_unwritten (scrambleEffect_eq_fault_iff.1 h).2
  | scrHdb3 => exact voltageOperand_fault_unwritten (scrambleEffect_eq_fault_iff.1 h).2
  | anaPal => exact bitStringOperand_fault_unwritten (anaPalEffect_eq_fault_iff.1 h)
  | anaZrun => exact voltageOperand_fault_unwritten (anaZrunEffect_eq_fault_iff.1 h)

end Sys2Proof.Machine
end

section
/-! PROOFS. Whose turn a step is (R20, R192, R212), where a step stops (U1), and who changes the result registers (R33). -/

namespace Sys2Proof.Machine

/-! ### Whose turn a step is -/

theorem engineMoves_of_idle {s : State} (hb : s.busy = false) : engineMoves s = false := by
  simp [engineMoves, hb]

theorem engineMoves_of_silent {s : State} (hb : s.busy = true) (he : s.env = []) : engineMoves s = true := by
  simp [engineMoves, hb, he]

theorem engineMoves_of_reset {s : State} {during : List Transaction} {rest : List EnvEvent}
    (he : s.env = .reset during :: rest) : engineMoves s = false := by
  simp [engineMoves, he]

/-- While BUSY = 1 and the host has something to do, the schedule decides (log 4). -/
theorem engineMoves_of_contention {s : State} {e : EnvEvent} {rest : List EnvEvent} (hb : s.busy = true)
    (he : s.env = e :: rest) (hreset : ∀ d, e ≠ .reset d) :
    engineMoves s = decide (s.schedule.head? ≠ some .host) := by
  cases e with
  | bus tx => simp [engineMoves, hb, he]
  | poll => simp [engineMoves, hb, he]
  | reset during => exact (hreset during rfl).elim

theorem step_idle {s : State} (hb : s.busy = false) : step s = envStep s := by
  simp [step, engineMoves_of_idle hb, hb]

/-- Where the schedule puts the host first, the step is the host's and uses up the turn. -/
theorem step_hostTurn {s : State} {e : EnvEvent} {rest : List EnvEvent} (hb : s.busy = true)
    (he : s.env = e :: rest) (hreset : ∀ d, e ≠ .reset d) (hs : s.schedule.head? = some .host) :
    engineMoves s = false ∧ step s = envStep (takeTurn s) := by
  have hm : engineMoves s = false := by simp [engineMoves_of_contention hb he hreset, hs]
  exact ⟨hm, by simp [step, hm, hb]⟩

/-- Settles O49: `engineMoves` in each case, and the step it leaves to the outside world. -/
theorem stepArbitratesTheAgents : Obligations.StepArbitratesTheAgents := by
  refine ⟨fun _ => engineMoves_of_silent, ?_, fun _ _ _ => step_hostTurn,
    fun _ hb => ⟨engineMoves_of_idle hb, step_idle hb⟩, ?_, fun _ _ _ => engineMoves_of_reset⟩
  · intro s e rest hb he hreset hs
    rw [engineMoves_of_contention hb he hreset, decide_eq_true hs]
  · intro s hb he
    simp only [step_idle hb, envStep, he]

/-! ### Reset -/

/-- Settles O52: every field is the listed value by definition. -/
theorem resetStateHasTheListedValues : Obligations.ResetStateHasTheListedValues := fun _ =>
  ⟨rfl, rfl, rfl, rfl, rfl, rfl, rfl, rfl, rfl, rfl, rfl, fun k => ⟨readCell_nil k, readCell_nil k, readCell_nil k⟩⟩

/-- Settles O54: zero lengths and results fit, and no cell is written. -/
theorem invariantHoldsAtReset : Obligations.InvariantHoldsAtReset :=
  ⟨inv_resetOf (by decide), fun _ => inv_resetOf⟩

/-! ### A host turn while BUSY = 1 -/

theorem hostTransaction_read {s : State} {a : BusAddr} {r : Reply} (rest : List EnvEvent)
    (h : busRead a s = .ok r) :
    hostTransaction (.read a) rest s = .next (observe (.read a) r { s with env := rest }) := by
  simp [hostTransaction, transact, h]

theorem hostTransaction_write (s : State) (a : BusAddr) (d : Word) (rest : List EnvEvent) :
    hostTransaction (.write a d) rest s =
      .next (observe (.write a d) { resp := (busWrite a d s).1, data := 0#32 }
        { (busWrite a d s).2 with env := rest }) := rfl

/-- The address map and the registers do not see the schedule. -/
theorem busRead_takeTurn (a : BusAddr) (s : State) : busRead a (takeTurn s) = busRead a s := by
  have hreg (r : Reg) : readReg r (takeTurn s) = readReg r s := by cases r <;> rfl
  unfold busRead
  rw [takeTurn_params, takeTurn_busy]
  cases decodeAddr s.params a with
  | none => rfl
  | some t =>
    cases t with
    | reg r => simp only [readTarget, readTargetBusy, hreg]
    | sym k => rfl
    | volt k => rfl
    | samp k => rfl

/-- R38: the reply to a read while BUSY = 1. -/
theorem busRead_busy {s : State} (a : BusAddr) (hb : s.busy = true) :
    ∃ r, busRead a s = .ok r
      ∧ (a.toNat ∈ [0x0, 0x4, 0x8, 0xC, 0x14] → r.resp = .okay)
      ∧ (a.toNat ∉ [0x0, 0x4, 0x8, 0xC, 0x14] → r = busErrorReply) := by
  by_cases ha : a.toNat ∈ [0x0, 0x4, 0x8, 0xC, 0x14]
  · obtain ⟨r, hr, hoff⟩ := readable_offset_iff.2 ha
    exact ⟨_, busRead_readable hr hoff, fun _ => rfl, fun hn => (hn ha).elim⟩
  · exact ⟨_, busRead_blocked hb fun r hr hoff => ha (readable_offset_iff.1 ⟨r, hr, hoff⟩),
      fun h => (ha h).elim, fun _ => rfl⟩

/-- Settles O60: the step is the host's turn, and R38 gives its reply. -/
theorem busyStepRecordsTheReply : Obligations.BusyStepRecordsTheReply := by
  refine ⟨?_, ?_⟩
  · intro s a rest hb hs he
    obtain ⟨r, hread, hokay, hblocked⟩ := busRead_busy a hb
    refine ⟨r, hread, hokay, hblocked, ?_⟩
    rw [(step_hostTurn hb he (by simp) hs).2, envStep, takeTurn_env, he]
    exact hostTransaction_read rest ((busRead_takeTurn a s).trans hread)
  · intro s a d rest hb hs he
    rw [(step_hostTurn hb he (by simp) hs).2, envStep, takeTurn_env, he]
    have hw : busWrite a d (takeTurn s) = (.busErr, takeTurn s) := busWrite_busy a d hb
    dsimp only
    rw [hostTransaction_write, hw]
    rfl

/-! ### Where a step stops -/

theorem busRead_fault_unwritten {a : BusAddr} {s : State} {f : Fault} (h : busRead a s = .error f) :
    FaultNamesUnwritten f s := by
  obtain ⟨-, ⟨k, rfl, hk⟩ | ⟨k, rfl, hk⟩ | ⟨k, rfl, hk⟩⟩ := busRead_eq_error h
  · exact hk
  · exact hk
  · exact hk

theorem transact_fault_unwritten {tx : Transaction} {s : State} {f : Fault} (h : transact tx s = .error f) :
    FaultNamesUnwritten f s := by
  cases tx with
  | read a =>
    simp only [transact] at h
    split at h
    · cases h
    · rename_i g hg
      cases h
      exact busRead_fault_unwritten hg
  | write a d => cases h

/-- An outcome is safe at `s`: a next state, or a fault over an unwritten cell. -/
def StopsSafely (s : State) (o : Host.Outcome State Fault Refusal) : Prop :=
  (∀ f, o = .fault f → FaultNamesUnwritten f s) ∧ ∀ r, o ≠ .refused r

theorem stopsSafely_next (s t : State) : StopsSafely s (.next t) :=
  ⟨nofun, nofun⟩

theorem stopsSafely_fault {s : State} {f : Fault} (h : FaultNamesUnwritten f s) : StopsSafely s (.fault f) :=
  ⟨fun _ e => by cases e; exact h, nofun⟩

/-- What stops a step depends on the cells alone. -/
theorem StopsSafely.of_takeTurn {s : State} {o : Host.Outcome State Fault Refusal}
    (h : StopsSafely (takeTurn s) o) : StopsSafely s o := h

theorem engineStep_stopsSafely (s : State) : StopsSafely s (engineStep s) := by
  unfold engineStep
  split
  · exact stopsSafely_next _ _
  · exact ⟨fun _ => exec_fault_unwritten, exec_ne_refused _ s⟩

theorem hostTransaction_stopsSafely (tx : Transaction) (rest : List EnvEvent) (s : State) :
    StopsSafely s (hostTransaction tx rest s) := by
  unfold hostTransaction
  split
  · rename_i f hf
    exact stopsSafely_fault (transact_fault_unwritten hf)
  · exact stopsSafely_next _ _

theorem hostPoll_stopsSafely (rest : List EnvEvent) (s : State) : StopsSafely s (hostPoll rest s) := by
  unfold hostPoll
  split
  · rename_i f hf
    exact stopsSafely_fault (transact_fault_unwritten hf)
  · exact stopsSafely_next _ _

theorem envStep_stopsSafely (s : State) : StopsSafely s (envStep s) := by
  unfold envStep
  split
  · exact stopsSafely_next _ _
  · exact hostTransaction_stopsSafely _ _ s
  · exact hostPoll_stopsSafely _ s
  · exact stopsSafely_next _ _

/-- Settles O37: the engine's, the host's and a reset's turn all stop safely. -/
theorem stopsOnlyOnUnwrittenCells : Obligations.StopsOnlyOnUnwrittenCells := by
  intro s
  change StopsSafely s (step s)
  obtain ⟨-, -, hs⟩ | ⟨-, -, hs⟩ | ⟨-, -, hs⟩ := step_eq s <;> rw [hs]
  · exact (engineStep_stopsSafely (takeTurn s)).of_takeTurn
  · exact (envStep_stopsSafely (takeTurn s)).of_takeTurn
  · exact envStep_stopsSafely s

/-! ### Who changes the result registers -/

/-- The results of ANA.PAL are as before (R33). -/
def KeepsPalindrome (s t : State) : Prop := t.palStart = s.palStart ∧ t.palLen = s.palLen

/-- The results of ANA.ZRUN are as before (R33). -/
def KeepsZeroRun (s t : State) : Prop := t.zrStart = s.zrStart ∧ t.zrLen = s.zrLen

/-- Of the five kinds of writes only ANA.PAL's and ANA.ZRUN's reach a result register, each its own pair. -/
theorem exec_keeps_results {i : Instr} {s t : State} (h : exec i s = .next t) :
    (KeepsPalindrome s t ∨ (i = .anaPal ∧ t.err = .ok)) ∧ (KeepsZeroRun s t ∨ (i = .anaZrun ∧ t.err = .ok)) := by
  obtain ⟨u, hu, rfl⟩ | ⟨e, rfl⟩ := exec_eq_next h
  · obtain ⟨bytes, n, -, rfl⟩ | ⟨out, rfl⟩ | ⟨out, rfl⟩ | ⟨r, rfl, rfl⟩ | ⟨r, rfl, rfl⟩ := commandEffect_eq_ok hu
    · exact ⟨.inl ⟨rfl, rfl⟩, .inl ⟨rfl, rfl⟩⟩
    · exact ⟨.inl ⟨rfl, rfl⟩, .inl ⟨rfl, rfl⟩⟩
    · exact ⟨.inl ⟨rfl, rfl⟩, .inl ⟨rfl, rfl⟩⟩
    · exact ⟨.inr ⟨rfl, rfl⟩, .inl ⟨rfl, rfl⟩⟩
    · exact ⟨.inl ⟨rfl, rfl⟩, .inr ⟨rfl, rfl⟩⟩
  · exact ⟨.inl ⟨rfl, rfl⟩, .inl ⟨rfl, rfl⟩⟩

theorem engineStep_keeps_results {s t : State} (h : engineStep s = .next t) :
    (KeepsPalindrome s t ∨ (decode s.cmd = .ok .anaPal ∧ t.err = .ok))
      ∧ (KeepsZeroRun s t ∨ (decode s.cmd = .ok .anaZrun ∧ t.err = .ok)) := by
  obtain ⟨e, -, rfl⟩ | ⟨i, hi, ht⟩ := engineStep_eq_next h
  · exact ⟨.inl ⟨rfl, rfl⟩, .inl ⟨rfl, rfl⟩⟩
  · simpa only [hi, Except.ok.injEq] using exec_keeps_results ht

/-- The result registers are read-only to the host (R22, R33). -/
theorem busWrite_keeps_results (a : BusAddr) (d : Word) (s : State) :
    KeepsPalindrome s (busWrite a d s).2 ∧ KeepsZeroRun s (busWrite a d s).2 := by
  obtain hw | ⟨tgt, t, -, -, ht, hw⟩ := busWrite_cases a d s <;> rw [hw]
  · exact ⟨⟨rfl, rfl⟩, ⟨rfl, rfl⟩⟩
  · cases tgt with
    | reg r =>
      obtain rfl | ⟨-, rfl⟩ | ⟨-, rfl⟩ | ⟨-, rfl⟩ := writeReg_eq_some ht <;> exact ⟨⟨rfl, rfl⟩, ⟨rfl, rfl⟩⟩
    | sym k =>
      cases ht
      exact ⟨⟨rfl, rfl⟩, ⟨rfl, rfl⟩⟩
    | volt k =>
      simp only [writeTarget] at ht
      split at ht
      · cases ht
        exact ⟨⟨rfl, rfl⟩, ⟨rfl, rfl⟩⟩
      · cases ht
    | samp k =>
      cases ht
      exact ⟨⟨rfl, rfl⟩, ⟨rfl, rfl⟩⟩

theorem envStep_keeps_results {s t : State} (h : envStep s = .next t)
    (hreset : ∀ during rest, s.env ≠ .reset during :: rest) : KeepsPalindrome s t ∧ KeepsZeroRun s t := by
  obtain ⟨-, rfl⟩ | ⟨tx, rest, r, s', -, htx, rfl⟩ | ⟨rest, r, -, -, rfl⟩ | ⟨during, rest, he, -⟩ :=
    envStep_eq_next h
  · exact ⟨⟨rfl, rfl⟩, ⟨rfl, rfl⟩⟩
  · obtain ⟨a, -, -, rfl⟩ | ⟨a, d, -, -, rfl⟩ := transact_eq_ok htx
    · exact ⟨⟨rfl, rfl⟩, ⟨rfl, rfl⟩⟩
    · exact busWrite_keeps_results a d s
  · exact ⟨⟨rfl, rfl⟩, ⟨rfl, rfl⟩⟩
  · exact (hreset during rest he).elim

/-- A step that is no reset keeps each pair of results, or is the engine's, on their command. -/
theorem step_keeps_results {s t : State} (h : step s = .next t)
    (hreset : ∀ during rest, s.env ≠ .reset during :: rest) :
    (KeepsPalindrome s t ∨ (engineMoves s = true ∧ decode s.cmd = .ok .anaPal ∧ t.err = .ok))
      ∧ (KeepsZeroRun s t ∨ (engineMoves s = true ∧ decode s.cmd = .ok .anaZrun ∧ t.err = .ok)) := by
  obtain ⟨hm, -, hs⟩ | ⟨-, -, hs⟩ | ⟨-, -, hs⟩ := step_eq s <;> rw [hs] at h
  · obtain ⟨hpal, hzero⟩ := engineStep_keeps_results h
    exact ⟨hpal.imp_right (And.intro hm), hzero.imp_right (And.intro hm)⟩
  · exact (envStep_keeps_results (s := takeTurn s) h hreset).imp .inl .inl
  · exact (envStep_keeps_results h hreset).imp .inl .inl

/-- Settles O58: a step keeps each pair of results or is the engine's, on their command. -/
theorem resultsChangeOnlyByTheirCommand : Obligations.ResultsChangeOnlyByTheirCommand := by
  intro s t h hreset
  obtain ⟨hpal, hzero⟩ := step_keeps_results h hreset
  exact ⟨fun hne => hpal.resolve_left fun ⟨hstart, hlen⟩ => hne.elim (· hstart) (· hlen),
    fun hne => hzero.resolve_left fun ⟨hstart, hlen⟩ => hne.elim (· hstart) (· hlen)⟩

end Sys2Proof.Machine
end

section
/-! PROOFS. The cells. A host read and write of one cell over the bus (R56, R57, R59), an idle transaction and POLL
(R50, R66), what a command leaves of the cells and registers its rule does not name (R63), and where a scramble rewrites (R64). -/

namespace Sys2Proof.Machine

open Sys2Proof.Statements

/-! ### The words of a cell -/

/-- R56: zero extension keeps the number. -/
theorem symWord_eq (c : Byte) : symWord c = BitVec.ofNat 32 c.toNat :=
  BitVec.eq_of_toNat_eq (by simp [symWord])

theorem extractByte_eq (d : Word) : d.extractLsb' 0 8 = BitVec.ofNat 8 (d.toNat % 2 ^ 8) :=
  BitVec.eq_of_toNat_eq (by simp)

/-- R57: sign extension keeps the integer. -/
theorem tritWord_eq (c : Trit) : tritWord c = BitVec.ofInt 32 c.toInt := by cases c <;> rfl

@[simp] theorem tritOfWord_tritWord (c : Trit) : tritOfWord (tritWord c) = some c := by cases c <;> rfl

theorem tritOfWord_eq_none {d : Word} (hzero : d ≠ 0x00000000#32) (hplus : d ≠ 0x00000001#32)
    (hminus : d ≠ 0xFFFFFFFF#32) : tritOfWord d = none := by
  rw [tritOfWord, if_neg hplus, if_neg hzero, if_neg hminus]

/-! ### A cell over the bus -/

theorem readTarget_sym {s : State} {k : Nat} {c : Byte} (h : readCell s.mem.sym k = some c) :
    readTarget (.sym k) s = .ok (okayReply (symWord c)) := by
  simp only [readTarget, h]

theorem readTarget_volt {s : State} {k : Nat} {c : Trit} (h : readCell s.mem.volt k = some c) :
    readTarget (.volt k) s = .ok (okayReply (tritWord c)) := by
  simp only [readTarget, h]

theorem readTarget_samp {s : State} {k : Nat} {w : Word} (h : readCell s.mem.samp k = some w) :
    readTarget (.samp k) s = .ok (okayReply w) := by
  simp only [readTarget, h]

theorem busWrite_idle_okay {s s' : State} {a : BusAddr} {t : Target} {d : Word} (hb : s.busy = false)
    (ht : decodeAddr s.params a = some t) (hw : writeTarget t d s = some s') :
    busWrite a d s = (.okay, s') := by
  rw [busWrite_idle d hb ht, hw]
  rfl

theorem busWrite_idle_busErr {s : State} {a : BusAddr} {t : Target} {d : Word} (hb : s.busy = false)
    (ht : decodeAddr s.params a = some t) (hw : writeTarget t d s = none) :
    busWrite a d s = (.busErr, s) := by
  rw [busWrite_idle d hb ht, hw]
  rfl

theorem writeTarget_volt_some {d : Word} {c : Trit} (h : tritOfWord d = some c) (k : Nat) (s : State) :
    writeTarget (.volt k) d s = some (writeVolt k c s) := by
  simp only [writeTarget, h]

theorem writeTarget_volt_none {d : Word} (h : tritOfWord d = none) (k : Nat) (s : State) :
    writeTarget (.volt k) d s = none := by
  simp only [writeTarget, h]

/-- Settles O43: the address of a SYM cell reaches it, and a write of it leaves every other cell. -/
theorem symCellsReadAndWrite : Obligations.SymCellsReadAndWrite := by
  intro s k hp hb hk
  have haddr := decodeAddr_symAddr hp hk
  refine ⟨fun c hc => ?_, fun d => ⟨_, busWrite_idle_okay hb haddr rfl, fun j => ?_⟩⟩
  · rw [← symWord_eq]
    exact (busRead_idle hb haddr).trans (readTarget_sym hc)
  · rw [← extractByte_eq]
    exact readCell_writeCell _ _ _ _

/-- Settles O44: as for SYM, where a write is taken exactly for the word of a ternary value. -/
theorem voltCellsReadAndWrite : Obligations.VoltCellsReadAndWrite := by
  intro s k hp hb hk
  have haddr := decodeAddr_voltAddr hp hk
  refine ⟨fun c hc => ?_, fun c => ⟨writeCell s.mem.volt k c, ?_, fun j => readCell_writeCell _ _ _ _⟩,
    fun d hzero hplus hminus => ?_⟩
  · rw [← tritWord_eq]
    exact (busRead_idle hb haddr).trans (readTarget_volt hc)
  · rw [← tritWord_eq]
    exact busWrite_idle_okay hb haddr (writeTarget_volt_some (tritOfWord_tritWord c) k s)
  · exact busWrite_idle_busErr hb haddr (writeTarget_volt_none (tritOfWord_eq_none hzero hplus hminus) k s)

/-- Settles O45: as for SYM, where the word is the cell. -/
theorem sampCellsReadAndWrite : Obligations.SampCellsReadAndWrite := by
  intro s k hp hb hk
  have haddr := decodeAddr_sampAddr hp hk
  exact ⟨fun w hw => (busRead_idle hb haddr).trans (readTarget_samp hw),
    fun d => ⟨_, busWrite_idle_okay hb haddr rfl, fun j => readCell_writeCell _ _ _ _⟩⟩

/-! ### A turn of the host -/

/-- The host's record is no part of the block, and a write of a register or a cell leaves it (log 7). -/
theorem busWrite_observed (a : BusAddr) (d : Word) (s : State) : (busWrite a d s).2.observed = s.observed := by
  obtain hw | ⟨tgt, t, -, -, ht, hw⟩ := busWrite_cases a d s <;> rw [hw]
  cases tgt with
  | reg r => obtain rfl | ⟨-, rfl⟩ | ⟨-, rfl⟩ | ⟨-, rfl⟩ := writeReg_eq_some ht <;> rfl
  | sym k => cases ht; rfl
  | volt k =>
    simp only [writeTarget] at ht
    split at ht
    · cases ht; rfl
    · cases ht
  | samp k => cases ht; rfl

/-- Settles O50: an idle step is the outside world's, and its event a transaction. -/
theorem idleStepPerformsTheTransaction : Obligations.IdleStepPerformsTheTransaction := by
  refine ⟨fun s a rest r hb he hread => ?_, fun s a d rest hb he => ?_⟩
  · rw [step_idle hb, envStep, he]
    exact hostTransaction_read rest hread
  · rw [step_idle hb, envStep, he, ← busWrite_observed a d s]
    exact hostTransaction_write s a d rest

/-- Bit 0 of STATUS is BUSY (R27). -/
theorem statusWord_bit_zero (s : State) : (statusWord s).getLsbD 0 = s.busy := by
  unfold statusWord
  cases s.err <;> cases s.busy <;> rfl

/-- A turn of POLL records STATUS, and stays at the POLL while BUSY = 1 (R66, R89). -/
theorem hostPoll_eq (rest : List EnvEvent) (s : State) :
    hostPoll rest s = .next (observe pollRead (okayReply (statusWord s))
      { s with env := if s.busy then .poll :: rest else rest }) := by
  have hread : busRead 0x00014#17 s = .ok (okayReply (statusWord s)) := busRead_readable (r := .status) rfl rfl
  have htx : transact pollRead s = .ok (okayReply (statusWord s), s) := by simp only [pollRead, transact, hread]
  rw [hostPoll, htx]
  simp only [okayReply, statusWord_bit_zero]

/-- Settles O51: the step is the host's, idle or in the turn the schedule gives it, and one turn of POLL. -/
theorem pollWaitsForCompletion : Obligations.PollWaitsForCompletion := by
  refine fun s rest he => ⟨fun hb => ?_, fun hb hs => ?_⟩
  · rw [step_idle hb, envStep, he]
    dsimp only
    rw [hostPoll_eq, hb]
    rfl
  · rw [(step_hostTurn hb he (by simp) hs).2, envStep, takeTurn_env, he]
    dsimp only
    rw [hostPoll_eq, takeTurn_busy, hb, if_pos rfl, ← he]
    rfl

/-! ### What a command writes -/

/-- From `s` to `t` a quantize command at most wrote STATUS, SYM_LEN and SYM below the new length (R63, R81). -/
def WritesSymbols (s t : State) : Prop :=
  t = { s with busy := t.busy, err := t.err, symLen := t.symLen, mem := { s.mem with sym := t.mem.sym } }
    ∧ (t.err = .ok → ∀ k, t.symLen ≤ k → readCell t.mem.sym k = readCell s.mem.sym k)

/-- From `s` to `t` an encode command at most wrote STATUS, VOLT_LEN, VKIND and VOLT below the new length (R63, R81). -/
def WritesVoltages (s t : State) : Prop :=
  t = { s with busy := t.busy, err := t.err, voltLen := t.voltLen, vkind := t.vkind,
               mem := { s.mem with volt := t.mem.volt } }
    ∧ (t.err = .ok → ∀ k, t.voltLen ≤ k → readCell t.mem.volt k = readCell s.mem.volt k)

/-- From `s` to `t` a scramble command at most wrote STATUS, VKIND and VOLT below VOLT_LEN (R63, R64, R81). -/
def WritesScrambled (s t : State) : Prop :=
  t = { s with busy := t.busy, err := t.err, vkind := t.vkind, mem := { s.mem with volt := t.mem.volt } }
    ∧ ∀ k, s.voltLen ≤ k → readCell t.mem.volt k = readCell s.mem.volt k

/-- A run written from cell 0 on leaves the cells beyond it. -/
theorem readCell_writeCells_beyond {α : Type} {m : Cells α} {xs : List α} {k : Nat} (h : xs.length ≤ k) :
    readCell (writeCells m 0 xs) k = readCell m k := by
  rw [readCell_writeCells_zero, if_neg (Nat.not_lt.2 h)]

/-- An error writes STATUS alone, so only a quantize command's completion has to be looked at. -/
theorem conclude_writesSymbols {r : Except Abort State} {s t : State} (h : conclude s r = .next t)
    (hr : ∀ u, r = .ok u → WritesSymbols s (complete u)) : WritesSymbols s t := by
  obtain ⟨u, hu, rfl⟩ | ⟨e, -, rfl⟩ := conclude_eq_next.1 h
  · exact hr u hu
  · exact ⟨rfl, fun hok => (e.code_ne_ok hok).elim⟩

theorem writesSymbols_storeSymbols {bytes : List Byte} {n : Nat} (s : State) (hlen : bytes.length = n) :
    WritesSymbols s (complete (storeSymbols bytes n s)) :=
  ⟨rfl, fun _ _ hk => readCell_writeCells_beyond (hlen.trans_le hk)⟩

theorem quantPcm_writes {depth : Nat} {s t : State} (h : conclude s (quantPcmEffect depth s) = .next t) :
    WritesSymbols s t := by
  refine conclude_writesSymbols h fun u hu => ?_
  obtain ⟨-, xs, hxs, rfl⟩ := quantPcmEffect_eq_ok hu
  exact writesSymbols_storeSymbols s (by simp [sampleOperand_length hxs])

theorem quantDm_writes {s t : State} (h : conclude s (quantDmEffect s) = .next t) : WritesSymbols s t := by
  refine conclude_writesSymbols h fun u hu => ?_
  obtain ⟨xs, hxs, rfl⟩ := quantDmEffect_eq_ok hu
  exact writesSymbols_storeSymbols s (by simp [sampleOperand_length hxs])

theorem encode_writes {kind : VKind} {emit : List Bool → List Trit} {s t : State}
    (h : conclude s (encodeEffect kind emit s) = .next t) : WritesVoltages s t := by
  obtain ⟨u, hu, rfl⟩ | ⟨e, -, rfl⟩ := conclude_eq_next.1 h
  · obtain ⟨bits, -, rfl⟩ := encodeEffect_eq_ok hu
    exact ⟨rfl, fun _ _ hk => readCell_writeCells_beyond hk⟩
  · exact ⟨rfl, fun hok => (e.code_ne_ok hok).elim⟩

/-- A scan that keeps the sequence's length stores nothing at or beyond VOLT_LEN. -/
theorem scramble_writes {kind : VKind} {scan : List Trit → List Trit} {s t : State}
    (hscan : ∀ v, (scan v).length = v.length) (h : conclude s (scrambleEffect kind scan s) = .next t) :
    WritesScrambled s t := by
  obtain ⟨u, hu, rfl⟩ | ⟨e, -, rfl⟩ := conclude_eq_next.1 h
  · obtain ⟨-, v, hv, rfl⟩ := scrambleEffect_eq_ok hu
    have hlen : (scan v).length = s.voltLen := (hscan v).trans (voltageOperand_length hv)
    exact ⟨rfl, fun k hk => readCell_writeCells_beyond (hlen.trans_le hk)⟩
  · exact ⟨rfl, fun _ _ => rfl⟩

/-- Settles O34: each kind of command writes only its own fields, and its output fills the new length exactly. -/
theorem commandsWriteOnlyWhatTheyName : Obligations.CommandsWriteOnlyWhatTheyName := by
  intro i s t h
  cases i with
  | quantPcm depth => exact quantPcm_writes h
  | quantDm => exact quantDm_writes h
  | encNrzl => exact encode_writes h
  | encNrzi => exact encode_writes h
  | encMan => exact encode_writes h
  | encDman => exact encode_writes h
  | encAmi => exact encode_writes h
  | scrB8zs => exact scramble_writes b8zs_length h
  | scrHdb3 => exact scramble_writes hdb3_length h
  | anaPal =>
    obtain ⟨u, hu, rfl⟩ | ⟨e, rfl⟩ := exec_eq_next h
    · obtain ⟨bits, -, rfl⟩ := anaPalEffect_eq_ok hu
      rfl
    · rfl
  | anaZrun =>
    obtain ⟨u, hu, rfl⟩ | ⟨e, rfl⟩ := exec_eq_next h
    · obtain ⟨v, -, rfl⟩ := anaZrunEffect_eq_ok hu
      rfl
    · rfl

/-! ### Where a scramble rewrites -/

/-- Every cell in which `w` differs from `v` lies in a window of `width` zeros of `v` that starts at cell `i` or later. -/
def RewritesZeroWindows (width i : Nat) (v w : List Trit) : Prop :=
  ∀ k, w[k]? ≠ v[k]? → ∃ start, i ≤ start ∧ start ≤ k ∧ k < start + width ∧ ZeroRun v start width

theorem RewritesZeroWindows.refl (width i : Nat) (v : List Trit) : RewritesZeroWindows width i v v :=
  fun _ h => (h rfl).elim

theorem RewritesZeroWindows.of_succ {width i : Nat} {v w : List Trit} (h : RewritesZeroWindows width (i + 1) v w) :
    RewritesZeroWindows width i v w := by
  intro k hk
  obtain ⟨start, hi, hrest⟩ := h k hk
  exact ⟨start, by omega, hrest⟩

/-- The window at `i` is rewritten first, to `v'`; the windows beyond it are those of `v`, since the cells there are. -/
theorem RewritesZeroWindows.of_substitute {width i : Nat} {v v' w : List Trit} (hzero : ZeroRun v i width)
    (hsub : ∀ k, k < i ∨ i + width ≤ k → v'[k]? = v[k]?) (hlen : v'.length = v.length)
    (h : RewritesZeroWindows width (i + width) v' w) : RewritesZeroWindows width i v w := by
  intro k hk
  by_cases hwin : k < i ∨ i + width ≤ k
  · obtain ⟨start, hi, hle, hlt, hfits, hcells⟩ := h k (by rwa [hsub k hwin])
    exact ⟨start, by omega, hle, hlt, by omega, fun t ht => by rw [← hsub _ (by omega), hcells t ht]⟩
  · exact ⟨i, Nat.le_refl i, by omega, by omega, hzero⟩

theorem windowZero_iff {v : List Trit} {i width : Nat} :
    windowZero v i width = true ↔ ∀ t, t < width → v[i + t]? = some .zero := by
  simp [windowZero]

theorem b8zsSubstitute_outside {v : List Trit} {i k : Nat} (last : Trit) (h : k < i ∨ i + 8 ≤ k) :
    (b8zsSubstitute v i last)[k]? = v[k]? := by
  simp only [b8zsSubstitute]
  rw [List.getElem?_set_ne (by omega), List.getElem?_set_ne (by omega), List.getElem?_set_ne (by omega),
    List.getElem?_set_ne (by omega)]

theorem hdb3Substitute_outside {v : List Trit} {i k : Nat} (ones : Nat) (last : Trit) (h : k < i ∨ i + 4 ≤ k) :
    (hdb3Substitute v i ones last)[k]? = v[k]? := by
  rw [hdb3Substitute, List.getElem?_set_ne (by omega)]
  split
  · rw [List.getElem?_set_ne (by omega)]
  · rfl

theorem b8zsScan_rewrites (fuel i : Nat) (last : Trit) (v : List Trit) :
    RewritesZeroWindows 8 i v (b8zsScan fuel i last v) := by
  induction fuel generalizing i last v with
  | zero => exact .refl 8 i v
  | succ fuel ih =>
    unfold b8zsScan
    split
    · rename_i hfits
      split
      · rename_i hzero
        exact .of_substitute ⟨hfits, windowZero_iff.1 hzero⟩ (fun _ => b8zsSubstitute_outside last)
          (b8zsSubstitute_length v i last) (ih _ _ _)
      · exact .of_succ (ih _ _ _)
    · exact .refl 8 i v

theorem hdb3Scan_rewrites (fuel i : Nat) (last : Trit) (ones : Nat) (v : List Trit) :
    RewritesZeroWindows 4 i v (hdb3Scan fuel i last ones v) := by
  induction fuel generalizing i last ones v with
  | zero => exact .refl 4 i v
  | succ fuel ih =>
    unfold hdb3Scan
    split
    · rename_i hfits
      split
      · rename_i hzero
        exact .of_substitute ⟨hfits, windowZero_iff.1 hzero⟩ (fun _ => hdb3Substitute_outside ones last)
          (hdb3Substitute_length v i ones last) (ih _ _ _ _)
      · exact .of_succ (ih _ _ _ _)
    · exact .refl 4 i v

/-- What a scan rewrites of its sequence, a scramble command rewrites of VOLT. -/
theorem scramble_rewrites {kind : VKind} {scan : List Trit → List Trit} {width : Nat} {s t : State}
    (hlen : ∀ v, (scan v).length = v.length) (hscan : ∀ v, RewritesZeroWindows width 0 v (scan v))
    (h : conclude s (scrambleEffect kind scan s) = .next t) :
    t.voltLen = s.voltLen
      ∧ ∀ k, readCell t.mem.volt k ≠ readCell s.mem.volt k →
          ∃ start, start ≤ k ∧ k < start + width ∧ start + width ≤ s.voltLen
            ∧ ∀ j, j < width → readCell s.mem.volt (start + j) = some .zero := by
  obtain ⟨u, hu, rfl⟩ | ⟨e, -, rfl⟩ := conclude_eq_next.1 h
  · obtain ⟨-, v, hv, rfl⟩ := scrambleEffect_eq_ok hu
    obtain ⟨hvlen, hcells⟩ := voltageOperand_eq_ok.1 hv
    refine ⟨rfl, fun k hk => ?_⟩
    simp only [complete_mem, storeScrambled_mem, readCell_writeCells_zero, hlen] at hk
    have hin : k < v.length := by
      by_contra hout
      exact hk (if_neg hout)
    rw [if_pos hin, hcells k (by omega)] at hk
    obtain ⟨start, -, hle, hlt, hfits, hzero⟩ := hscan v k hk
    exact ⟨start, hle, hlt, by omega, fun j hj => by rw [hcells _ (by omega), hzero j hj]⟩
  · exact ⟨rfl, fun _ hk => (hk rfl).elim⟩

/-- Settles O22: both scans rewrite windows of zeros only. -/
theorem scramblersRewriteZeroWindowsOnly : Obligations.ScramblersRewriteZeroWindowsOnly := by
  rintro i kind window s t (⟨rfl, rfl, rfl⟩ | ⟨rfl, rfl, rfl⟩) h
  · exact scramble_rewrites b8zs_length (fun v => b8zsScan_rewrites _ _ _ v) h
  · exact scramble_rewrites hdb3_length (fun v => hdb3Scan_rewrites _ _ _ _ v) h

end Sys2Proof.Machine
end

section
/-! PROOFS. The command word. A word decodes to a command exactly where its three fields are that command's (R80, R82, R84);
both round trips, the illegal words and the engine's step on the pending word (R212) are read off this. -/

namespace Sys2Proof.Machine

open Sys2Proof.Statements

/-! ### The fields of a word -/

/-- R80: the three fields side by side are the word. -/
theorem append_fields (w : Word) : rsvField w ++ depthField w ++ opField w = w := by
  have hlow : depthField w ++ opField w = w.extractLsb' 0 13 :=
    BitVec.extractLsb'_append_extractLsb'_eq_extractLsb' rfl
  have hword : rsvField w ++ w.extractLsb' 0 13 = w.extractLsb' 0 32 :=
    BitVec.extractLsb'_append_extractLsb'_eq_extractLsb' rfl
  rw [BitVec.append_assoc, BitVec.cast_eq, hlow, hword, BitVec.extractLsb'_eq_self]

theorem opField_toNat (w : Word) : (opField w).toNat = w.toNat % 2 ^ 8 := by
  simp [opField]

theorem depthField_toNat (w : Word) : (depthField w).toNat = w.toNat / 2 ^ 8 % 2 ^ 5 := by
  simp [depthField, Nat.shiftRight_eq_div_pow]

theorem rsvField_toNat (w : Word) : (rsvField w).toNat = w.toNat / 2 ^ 13 := by
  have hw := w.isLt
  simp only [rsvField, BitVec.extractLsb'_toNat, Nat.shiftRight_eq_div_pow]
  exact Nat.mod_eq_of_lt (by omega)

/-! ### The decoder by its fields -/

theorem decodePlain_eq_ok_iff {w : Word} {i j : Instr} :
    decodePlain w i = .ok j ↔ depthField w = 0#5 ∧ i = j := by
  unfold decodePlain
  split <;> simp_all

/-- The fields of `w` are those of the well-formed command `i`. -/
structure Spells (w : Word) (i : Instr) : Prop where
  rsv : rsvField w = 0#19
  op : opField w = opOf i
  depth : depthField w = depthOf i
  wf : i.wf = true

theorem decode_of_spells {w : Word} {i : Instr} (h : Spells w i) : decode w = .ok i := by
  obtain ⟨hrsv, hop, hdepth, hwf⟩ := h
  unfold decode
  rw [if_neg (not_not_intro hrsv), hop]
  cases i with
  | quantPcm depth =>
    have hlt : depth < 2 ^ 5 := of_decide_eq_true hwf
    rw [hdepth]
    exact congrArg (fun n => Except.ok (Instr.quantPcm n)) (Nat.mod_eq_of_lt hlt)
  | quantDm | encNrzl | encNrzi | encMan | encDman | encAmi | scrB8zs | scrHdb3 | anaPal | anaZrun =>
    exact decodePlain_eq_ok_iff.2 ⟨hdepth, rfl⟩

/-- A command without an operand is decoded from its OP and DEPTH = 0 alone. -/
theorem spells_of_decodePlain {w : Word} {i j : Instr} (h : decodePlain w j = .ok i) (hrsv : rsvField w = 0#19)
    (hop : (opField w).toNat = (opOf j).toNat) (hzero : depthOf j = 0#5) (hwf : j.wf = true) : Spells w i := by
  obtain ⟨hdepth, rfl⟩ := decodePlain_eq_ok_iff.1 h
  exact ⟨hrsv, BitVec.eq_of_toNat_eq hop, hdepth.trans hzero.symm, hwf⟩

theorem spells_of_decode {w : Word} {i : Instr} (h : decode w = .ok i) : Spells w i := by
  unfold decode at h
  split at h
  case isTrue => cases h
  case isFalse hrsv =>
    have hrsv := not_not.1 hrsv
    split at h
    case h_1 hop =>
      cases h
      exact ⟨hrsv, BitVec.eq_of_toNat_eq hop, by simp [depthOf], decide_eq_true (depthField w).isLt⟩
    case h_12 => cases h
    all_goals
      rename_i hop
      exact spells_of_decodePlain h hrsv hop rfl rfl

theorem decode_eq_ok_iff {w : Word} {i : Instr} : decode w = .ok i ↔ Spells w i :=
  ⟨spells_of_decode, decode_of_spells⟩

/-! ### The round trips -/

theorem spells_encode {i : Instr} (h : i.wf = true) : Spells (encode i) i := by
  obtain ⟨hrsv, hop, hdepth⟩ := Laws.ReservedBitsClear.fields_of_encode i
  exact ⟨hrsv, hop, hdepth, h⟩

theorem Spells.encode_eq {w : Word} {i : Instr} (h : Spells w i) : encode i = w := by
  rw [encode, ← h.rsv, ← h.depth, ← h.op, append_fields]

/-- Settles O1: the fields of a command's word are the command's. -/
theorem decodeOfEncode : Obligations.DecodeOfEncode :=
  fun _ h => decode_of_spells (spells_encode h)

/-- Settles O2: a word is its fields, and they are those of the command it decodes to. -/
theorem encodeOfDecode : Obligations.EncodeOfDecode := by
  intro w i h
  have hspells := spells_of_decode h
  exact ⟨hspells.wf, hspells.encode_eq⟩

/-! ### Illegal words -/

theorem commandFields_eq {i : Instr} (h : i.wf = true) :
    commandFields i = ((opOf i).toNat, (depthOf i).toNat) := by
  cases i with
  | quantPcm depth =>
    have hlt : depth < 2 ^ 5 := of_decide_eq_true h
    exact congrArg (Prod.mk 0x10) (Nat.mod_eq_of_lt hlt).symm
  | quantDm | encNrzl | encNrzi | encMan | encDman | encAmi | scrB8zs | scrHdb3 | anaPal | anaZrun => rfl

/-- R82: an OP of the table and a DEPTH that is 0 outside QUANT.PCM are the fields of a command. -/
theorem exists_command {op depth : Nat} (hop : op ∈ definedOps) (hdepth : op ≠ 0x10 → depth = 0) (hlt : depth < 32) :
    ∃ i : Instr, i.wf = true ∧ commandFields i = (op, depth) := by
  simp only [definedOps, List.mem_cons, List.not_mem_nil, or_false] at hop
  obtain rfl | hop := hop
  · exact ⟨.quantPcm depth, decide_eq_true hlt, rfl⟩
  · obtain rfl : depth = 0 := hdepth (by omega)
    obtain rfl | rfl | rfl | rfl | rfl | rfl | rfl | rfl | rfl | rfl := hop
    · exact ⟨.quantDm, rfl, rfl⟩
    · exact ⟨.encNrzl, rfl, rfl⟩
    · exact ⟨.encNrzi, rfl, rfl⟩
    · exact ⟨.encMan, rfl, rfl⟩
    · exact ⟨.encDman, rfl, rfl⟩
    · exact ⟨.encAmi, rfl, rfl⟩
    · exact ⟨.scrB8zs, rfl, rfl⟩
    · exact ⟨.scrHdb3, rfl, rfl⟩
    · exact ⟨.anaPal, rfl, rfl⟩
    · exact ⟨.anaZrun, rfl, rfl⟩

theorem commandFields_defined (i : Instr) :
    (commandFields i).1 ∈ definedOps ∧ ((commandFields i).1 ≠ 0x10 → (commandFields i).2 = 0) := by
  cases i with
  | quantPcm depth => exact ⟨List.mem_cons_self, fun h => (h rfl).elim⟩
  | quantDm | encNrzl | encNrzi | encMan | encDman | encAmi | scrB8zs | scrHdb3 | anaPal | anaZrun => decide

/-- A word decodes to a command exactly where RSV is 0 and OP and DEPTH, as numbers, are the command's. -/
theorem decode_eq_ok_iff_numbers {w : Word} {i : Instr} :
    decode w = .ok i ↔ i.wf = true ∧ w.toNat / 2 ^ 13 = 0
      ∧ commandFields i = (w.toNat % 2 ^ 8, w.toNat / 2 ^ 8 % 2 ^ 5) := by
  rw [decode_eq_ok_iff, ← rsvField_toNat, ← opField_toNat, ← depthField_toNat]
  constructor
  · rintro ⟨hrsv, hop, hdepth, hwf⟩
    rw [commandFields_eq hwf, hrsv, hop, hdepth]
    exact ⟨hwf, rfl, rfl⟩
  · rintro ⟨hwf, hrsv, hfields⟩
    rw [commandFields_eq hwf, Prod.mk.injEq] at hfields
    obtain ⟨hop, hdepth⟩ := hfields
    exact ⟨BitVec.eq_of_toNat_eq hrsv, BitVec.eq_of_toNat_eq hop.symm, BitVec.eq_of_toNat_eq hdepth.symm, hwf⟩

/-- R84: a word is legal exactly where it decodes. -/
theorem not_illegalWord_iff (w : Word) : ¬IllegalWord w ↔ ∃ i, decode w = .ok i := by
  simp only [IllegalWord, not_or, not_and, ne_eq, not_not]
  constructor
  · rintro ⟨hrsv, hop, hdepth⟩
    obtain ⟨i, hwf, hfields⟩ := exists_command hop hdepth (Nat.mod_lt _ (by decide))
    exact ⟨i, decode_eq_ok_iff_numbers.2 ⟨hwf, hrsv, hfields⟩⟩
  · rintro ⟨i, hi⟩
    obtain ⟨-, hrsv, hfields⟩ := decode_eq_ok_iff_numbers.1 hi
    have hdefined := commandFields_defined i
    rw [hfields] at hdefined
    exact ⟨hrsv, hdefined⟩

theorem illegalWord_iff (w : Word) : IllegalWord w ↔ ∃ e, decode w = .error e := by
  rw [← not_iff_not, not_illegalWord_iff]
  cases decode w <;> simp

/-! ### The engine's step on the pending word -/

theorem engineStep_of_decode_ok {s : State} {i : Instr} (h : decode s.cmd = .ok i) : engineStep s = exec i s := by
  simp only [engineStep, h]

/-- An illegal word ends the step as `raise CmdError(UnsupportedTransition)` does (R84, R182). -/
theorem engineStep_of_decode_error {s : State} {e : DecodeError} (h : decode s.cmd = .error e) :
    engineStep s = .next (failed .unsupportedTransition s) := by
  simp only [engineStep, h]
  rfl

/-- R211: an idle CMD write is accepted, whatever the word. -/
theorem busWrite_cmd_idle {s : State} (w : Word) (hb : s.busy = false) :
    busWrite 0x00010#17 w s = (.okay, accept w s) :=
  busWrite_idle_okay hb (decodeAddr_reg .cmd rfl) rfl

/-- Settles O3: legal words are those that decode; an illegal one is accepted like any other and ends in its error. -/
theorem illegalWordsAreUnsupported : Obligations.IllegalWordsAreUnsupported := by
  intro w
  refine ⟨illegalWord_iff w, fun i hi => ?_, fun hw => ⟨fun s hb => busWrite_cmd_idle w hb, ?_⟩⟩
  · obtain ⟨-, -, hfields⟩ := decode_eq_ok_iff_numbers.1 hi
    exact hfields
  · rintro s rfl
    obtain ⟨e, he⟩ := (illegalWord_iff s.cmd).1 hw
    exact engineStep_of_decode_error he

theorem step_engineTurn {s : State} (h : engineMoves s = true) : step s = engineStep (takeTurn s) := by
  rw [step, if_pos h]

theorem engineMoves_withFetchWord (s : State) (nbits w : Nat) : engineMoves (s.withFetchWord nbits w) = true :=
  engineMoves_of_silent rfl rfl

theorem step_of_decode_ok {s : State} {i : Instr} (hm : engineMoves s = true) (hi : decode s.cmd = .ok i) :
    step s = exec i (takeTurn s) :=
  (step_engineTurn hm).trans (engineStep_of_decode_ok hi)

theorem step_of_decode_error {s : State} {e : DecodeError} (hm : engineMoves s = true)
    (he : decode s.cmd = .error e) : step s = .next (failed .unsupportedTransition (takeTurn s)) :=
  (step_engineTurn hm).trans (engineStep_of_decode_error he)

/-- A table word of 32 bits names what the word it leaves in CMD decodes to. -/
theorem decodeTableWord_eq (s : State) (w : Nat) :
    decodeTableWord 32 w = (decode (s.withFetchWord 32 w).cmd).toOption :=
  if_pos (Nat.mod_lt _ (by decide))

/-- Settles O48: the engine's turn is its step on CMD, which `withFetchWord` sets. -/
theorem stepRunsThePendingCommand : Obligations.StepRunsThePendingCommand := by
  refine ⟨fun s hm => ⟨step_engineTurn hm, fun _ => step_of_decode_ok hm, fun _ => step_of_decode_error hm⟩,
    fun s w i h => ?_, fun s w h => ?_⟩
  · rw [decodeTableWord_eq s] at h
    cases hd : decode (s.withFetchWord 32 w).cmd with
    | error e => rw [hd] at h; cases h
    | ok j =>
      rw [hd] at h
      cases h
      exact step_of_decode_ok (engineMoves_withFetchWord s 32 w) hd
  · rw [decodeTableWord_eq s] at h
    cases hd : decode (s.withFetchWord 32 w).cmd with
    | error e => exact step_of_decode_error (engineMoves_withFetchWord s 32 w) hd
    | ok j => rw [hd] at h; cases h

/-! ### The depth of QUANT.PCM -/

/-- R82: the command word of QUANT.PCM, as a number. -/
theorem encode_quantPcm {depth : Nat} (h : depth < 32) :
    encode (.quantPcm depth) = BitVec.ofNat 32 (0x10 + depth * 256) := by
  have hfields : encode (.quantPcm depth) = BitVec.ofNat 19 0 ++ BitVec.ofNat 5 depth ++ BitVec.ofNat 8 0x10 := rfl
  rw [hfields, ofNat_append_ofNat (by decide) h, ofNat_append_ofNat (by omega) (by decide)]
  congr 1
  omega

/-- R101: a depth of 0 or above PCM_MAX_DEPTH is InvalidInput, whatever the samples. -/
theorem exec_quantPcm_badDepth {depth : Nat} {s : State} (h : depth = 0 ∨ s.params.pcmMaxDepth < depth) :
    exec (.quantPcm depth) s = .next (failed .invalidInput s) := by
  have heffect : commandEffect (.quantPcm depth) s = .error (.cmdError .invalidInput) := by
    simp only [commandEffect, quantPcmEffect]
    split
    · rfl
    · exact if_pos (by omega)
  rw [exec_eq_conclude_effect, heffect]
  rfl

/-- Settles O5: the word is the command word of QUANT.PCM, and the depth is checked at execution. -/
theorem everyPcmDepthDecodes : Obligations.EveryPcmDepthDecodes := by
  intro depth hlt
  rw [← encode_quantPcm hlt]
  exact ⟨decodeOfEncode _ (decide_eq_true hlt), fun _ => exec_quantPcm_badDepth⟩

/-- Settles O4: the legal examples are command words; the illegal ones fail one check each. -/
theorem encodingExamplesDecode : Obligations.EncodingExamplesDecode :=
  ⟨decodeOfEncode (.quantPcm 2) rfl, decodeOfEncode (.quantPcm 16) rfl, decodeOfEncode (.quantPcm 0) rfl,
    fun _ => exec_quantPcm_badDepth (.inl rfl), decodeOfEncode .encAmi rfl, rfl, rfl, rfl⟩

end Sys2Proof.Machine
end

section
/-! PROOFS. The quantizer. QUANT.PCM and QUANT.DM share their shape: the checks, the samples read, a bit string stored as
symbols; what differs is the bit each cell holds, told by the level (R100, R104) and by the prediction (R105, R107). -/

namespace Sys2Proof.Machine

open Sys2Proof.Statements

/-! ### From a command's effect to its end -/

theorem exec_of_effect_ok {i : Instr} {s u : State} (h : commandEffect i s = .ok u) :
    exec i s = .next (succeeded u) := by
  rw [exec_eq_conclude_effect, h]
  rfl

theorem exec_of_effect_cmdError {i : Instr} {s : State} {e : CmdError}
    (h : commandEffect i s = .error (.cmdError e)) : exec i s = .next (failed e.code s) := by
  rw [exec_eq_conclude_effect, h]
  rfl

/-- The cells left by storing a bit string as symbols. -/
theorem readCell_writeSymbols (m : Cells Byte) (bits : List Bool) (k : Nat) :
    readCell (writeCells m 0 (bits.map symOf)) k =
      if k < bits.length then (bits[k]?).map symOf else readCell m k := by
  rw [readCell_writeCells_zero, List.length_map, List.getElem?_map]

theorem HoldsSamples.sampLen_ne_zero {s : State} {ws : List Word} (h : HoldsSamples s ws) (hne : ws ≠ []) :
    s.sampLen ≠ 0 := by
  rw [h.1]
  exact List.length_eq_zero_iff.not.2 hne

theorem HoldsSamples.sampleOperand_eq {s : State} {ws : List Word} (h : HoldsSamples s ws) :
    sampleOperand s = .ok (ws.map BitVec.toInt) := by
  obtain ⟨hlen, hcells⟩ := h
  exact sampleOperand_eq_ok hlen (fun k hk => hcells k (hlen ▸ hk))

theorem sampleValues_getElem? {ws : List Word} {j : Nat} (hj : j < ws.length) :
    (ws.map BitVec.toInt)[j]? = some (ws.getD j 0#32).toInt := by
  simp [hj]

/-! ### How QUANT.PCM ends -/

theorem exec_quantPcm_noSamples {depth : Nat} {s : State} (h : s.sampLen = 0) :
    exec (.quantPcm depth) s = .next (failed .invalidInput s) :=
  exec_of_effect_cmdError (e := .invalidInput) (if_pos h)

theorem exec_quantPcm_tooLong {depth : Nat} {s : State} (hlen : s.sampLen ≠ 0) (hlo : 1 ≤ depth)
    (hhi : depth ≤ s.params.pcmMaxDepth) (hcap : s.params.symCap < s.sampLen * depth) :
    exec (.quantPcm depth) s = .next (failed .capacityExceeded s) := by
  have hdepth : ¬(depth < 1 ∨ s.params.pcmMaxDepth < depth) := by omega
  refine exec_of_effect_cmdError (e := .capacityExceeded) ?_
  rw [commandEffect, quantPcmEffect, if_neg hlen, if_neg hdepth, if_pos hcap]

/-- R100: past the three checks, QUANT.PCM stores its bit string. -/
theorem exec_quantPcm_stores {depth : Nat} {s : State} {ws : List Word} (hne : ws ≠ []) (hs : HoldsSamples s ws)
    (hlo : 1 ≤ depth) (hhi : depth ≤ s.params.pcmMaxDepth) (hfit : s.sampLen * depth ≤ s.params.symCap) :
    exec (.quantPcm depth) s =
      .next (succeeded (storeSymbols ((pcmBits depth (ws.map BitVec.toInt)).map symOf) (ws.length * depth) s)) := by
  have hdepth : ¬(depth < 1 ∨ s.params.pcmMaxDepth < depth) := by omega
  have hcap : ¬s.params.symCap < s.sampLen * depth := by omega
  refine exec_of_effect_ok ?_
  rw [commandEffect, quantPcmEffect, if_neg (hs.sampLen_ne_zero hne), if_neg hdepth, if_neg hcap, hs.sampleOperand_eq,
    hs.1]

/-! ### The range and the levels -/

theorem sampleMin_eq {xs : List Int} {lo : Int} (hmem : lo ∈ xs) (hle : ∀ x ∈ xs, lo ≤ x) : sampleMin xs = lo := by
  cases xs with
  | nil => cases hmem
  | cons x xs =>
    have hmin := List.min?_eq_some_iff.2 ⟨hmem, hle⟩
    rw [List.min?_cons'] at hmin
    simpa [sampleMin] using hmin

theorem sampleMax_eq {xs : List Int} {hi : Int} (hmem : hi ∈ xs) (hle : ∀ x ∈ xs, x ≤ hi) : sampleMax xs = hi := by
  cases xs with
  | nil => cases hmem
  | cons x xs =>
    have hmax := List.max?_eq_some_iff.2 ⟨hmem, hle⟩
    rw [List.max?_cons'] at hmax
    simpa [sampleMax] using hmax

/-- R104: the unclamped value; on a degenerate range Lean divides by 0, which gives 0. -/
theorem quotient_nonneg {depth : Nat} {lo hi x : Int} (hlo : lo ≤ x) (hhi : x ≤ hi) :
    0 ≤ (2 ^ depth * (x - lo)) / (hi - lo) :=
  Int.ediv_nonneg (mul_nonneg (by positivity) (by omega)) (by omega)

/-- Between the bounds the quotient is not negative, so the level is the integer R100 writes. -/
theorem pcmLevel_eq {depth : Nat} {lo hi x : Int} (hlo : lo ≤ x) (hhi : x ≤ hi) :
    (pcmLevel depth lo hi x : Int) =
      if hi = lo then 0 else min (2 ^ depth - 1) ((2 ^ depth * (x - lo)) / (hi - lo)) := by
  unfold pcmLevel
  split
  · rfl
  · rw [Nat.cast_min, Int.toNat_of_nonneg (quotient_nonneg hlo hhi), Nat.cast_sub Nat.one_le_two_pow]
    norm_num

theorem pcmLevel_le (depth : Nat) (lo hi x : Int) : pcmLevel depth lo hi x ≤ 2 ^ depth - 1 := by
  unfold pcmLevel
  split
  · exact Nat.zero_le _
  · exact min_le_left _ _

/-- R104: only the maximum's quotient reaches 2^B, which is why the level is clamped. -/
theorem quotient_eq_pow_iff {depth : Nat} {lo hi x : Int} (hhi : x ≤ hi) (hlt : lo < hi) :
    (2 ^ depth * (x - lo)) / (hi - lo) = 2 ^ depth ↔ x = hi := by
  have hrange : 0 < hi - lo := by omega
  constructor
  · intro hquot
    by_contra hne
    have hless : (2 ^ depth * (x - lo)) / (hi - lo) < 2 ^ depth :=
      Int.ediv_lt_of_lt_mul hrange (mul_lt_mul_of_pos_left (by omega) (by positivity))
    omega
  · rintro rfl
    exact Int.mul_ediv_cancel _ hrange.ne'

/-- Settles O8: the quotient lies between 0 and 2^B because x − lo lies between 0 and hi − lo. -/
theorem pcmLevelsAreInRange : Obligations.PcmLevelsAreInRange := by
  intro depth lo hi x hlo hhi
  refine ⟨pcmLevel_le depth lo hi x, fun hlt => ⟨quotient_nonneg hlo hhi, ?_, quotient_eq_pow_iff hhi hlt, ?_⟩⟩
  · exact Int.ediv_le_of_le_mul (by omega) (mul_le_mul_of_nonneg_left (by omega) (by positivity))
  · rw [pcmLevel_eq hlo hhi, if_neg (by omega)]

/-! ### The bits of QUANT.PCM -/

theorem levelBits_getElem? {depth level t : Nat} (ht : t < depth) :
    (levelBits depth level)[t]? = some (level.testBit (depth - 1 - t)) := by
  simp [levelBits, ht]

/-- Blocks of one width end to end: place `c` is place `c % width` of block `c / width`. -/
theorem getElem?_flatMap_of_width {α β : Type} {f : α → List β} {width : Nat} (hpos : 0 < width)
    (hwidth : ∀ x, (f x).length = width) (xs : List α) (c : Nat) :
    (xs.flatMap f)[c]? = (xs[c / width]?).bind fun x => (f x)[c % width]? := by
  induction xs generalizing c with
  | nil => rfl
  | cons x xs ih =>
    rw [List.flatMap_cons]
    by_cases hc : c < width
    · rw [List.getElem?_append_left (by rwa [hwidth]), Nat.div_eq_of_lt hc, Nat.mod_eq_of_lt hc]
      rfl
    · have hle : width ≤ c := Nat.le_of_not_lt hc
      rw [List.getElem?_append_right (by rwa [hwidth]), hwidth, ih, Nat.div_eq_sub_div hpos hle,
        Nat.mod_eq_sub_mod hle, List.getElem?_cons_succ]

/-- R100: output bit `j * depth + t` is bit `depth - 1 - t` of the level of sample `j`. -/
theorem pcmBits_getElem? {depth c : Nat} {xs : List Int} {x : Int} (hpos : 0 < depth) (hx : xs[c / depth]? = some x) :
    (pcmBits depth xs)[c]? =
      some ((pcmLevel depth (sampleMin xs) (sampleMax xs) x).testBit (depth - 1 - c % depth)) := by
  rw [pcmBits, getElem?_flatMap_of_width hpos (fun _ => levelBits_length _ _), hx]
  exact levelBits_getElem? (Nat.mod_lt c hpos)

/-- Settles O6: the errors by the check that meets them; on completion, the level of each sample is the integer given. -/
theorem pcmQuantizesEachSample : Obligations.PcmQuantizesEachSample := by
  refine ⟨fun depth hlt => (everyPcmDepthDecodes depth hlt).1, ?_, fun _ _ => exec_quantPcm_tooLong, ?_⟩
  · rintro s depth (hlen | hdepth)
    · exact exec_quantPcm_noSamples hlen
    · exact exec_quantPcm_badDepth (by omega)
  · intro s depth ws lo hi level hne hs hlow hhigh hfit hlo hlomin hhi hhimax hlevel
    refine ⟨_, exec_quantPcm_stores hne hs hlow hhigh hfit, fun c => ?_⟩
    rw [readCell_writeSymbols, pcmBits_length, List.length_map]
    split
    case isFalse => rfl
    case isTrue hc =>
      have hj : c / depth < ws.length := Nat.div_lt_of_lt_mul (by rwa [Nat.mul_comm])
      have hx := sampleValues_getElem? hj
      have hmem : (ws.getD (c / depth) 0#32).toInt ∈ ws.map BitVec.toInt := List.mem_of_getElem? hx
      have hsame : pcmLevel depth lo hi (ws.getD (c / depth) 0#32).toInt = level (c / depth) := by
        exact_mod_cast (pcmLevel_eq (hlomin _ hmem) (hhimax _ hmem)).trans (hlevel _ hj).symm
      rw [pcmBits_getElem? hlow hx, sampleMin_eq hlo hlomin, sampleMax_eq hhi hhimax, hsame]
      rfl

/-- Settles O7: equal samples are their own least and greatest value, so every level is 0 (R103). -/
theorem pcmDegenerateRangeIsAllZero : Obligations.PcmDegenerateRangeIsAllZero := by
  intro s depth ws hne hs hall hlow hhigh hfit
  obtain ⟨w, hw⟩ := List.exists_mem_of_ne_nil ws hne
  have hmem : w.toInt ∈ ws.map BitVec.toInt := List.mem_map_of_mem hw
  have hvalue : ∀ x ∈ ws.map BitVec.toInt, x = w.toInt := by
    intro x hx
    obtain ⟨v, hv, rfl⟩ := List.mem_map.1 hx
    rw [hall v hv w hw]
  obtain ⟨sym, hexec, hcells⟩ := pcmQuantizesEachSample.2.2.2 s depth ws w.toInt w.toInt (fun _ => 0) hne hs hlow hhigh
    hfit hmem (fun x hx => (hvalue x hx).ge) hmem (fun x hx => (hvalue x hx).le) (fun _ _ => (if_pos rfl).symm)
  refine ⟨_, hexec, rfl, congrArg (· * depth) hs.1.symm, fun c hc => ?_⟩
  rw [hs.1] at hc
  refine (hcells c).trans ?_
  rw [if_pos hc, Nat.zero_testBit]
  rfl

/-! ### The bits of QUANT.DM -/

/-- R105: the bit says whether the sample exceeds the prediction, which moves one step the same way. -/
theorem dmBits_cons (h p x : Int) (xs : List Int) :
    dmBits h p (x :: xs) = decide (x > p) :: dmBits h (if x > p then p + h else p - h) xs := by
  rw [dmBits]
  split <;> simp_all

theorem dmPrediction_succ {h x : Int} {xs : List Int} {j : Nat} (hx : xs[j]? = some x) :
    dmPrediction h xs (j + 1) =
      if x > dmPrediction h xs j then dmPrediction h xs j + h else dmPrediction h xs j - h := by
  rw [dmPrediction, List.getD_eq_getElem?_getD, hx]
  rfl

/-- R107: past `j` samples QUANT.DM goes on from the prediction before sample `j`, whatever follows. -/
theorem dmBits_take_append (h : Int) {xs : List Int} {j : Nat} (hj : j ≤ xs.length) (ys : List Int) :
    dmBits h 0 (xs.take j ++ ys) = dmBits h 0 (xs.take j) ++ dmBits h (dmPrediction h xs j) ys := by
  induction j generalizing ys with
  | zero => rfl
  | succ j ih =>
    have hx : xs[j]? = some xs[j] := List.getElem?_eq_getElem hj
    have hbefore := ih (Nat.le_of_succ_le hj)
    rw [List.take_add_one, hx, Option.toList_some, List.append_assoc, List.singleton_append, hbefore (xs[j] :: ys),
      hbefore [xs[j]], dmBits_cons, dmBits_cons, ← dmPrediction_succ hx, List.append_assoc]
    rfl

/-- R105: bit `j` is 1 exactly where sample `j` exceeds the prediction before it. -/
theorem dmBits_getElem? (h : Int) {xs : List Int} {j : Nat} {x : Int} (hx : xs[j]? = some x) :
    (dmBits h 0 xs)[j]? = some (decide (x > dmPrediction h xs j)) := by
  obtain ⟨hj, rfl⟩ := List.getElem?_eq_some_iff.1 hx
  have hsplit := dmBits_take_append h hj.le (xs.drop j)
  rw [List.take_append_drop, List.drop_eq_getElem_cons hj, dmBits_cons] at hsplit
  have hlen : (dmBits h 0 (xs.take j)).length = j := by
    rw [dmBits_length, List.length_take, Nat.min_eq_left hj.le]
  rw [hsplit, List.getElem?_append_right hlen.le, hlen, Nat.sub_self, List.getElem?_cons_zero]

/-- R107: each sample moves the prediction by one step. -/
theorem abs_dmPrediction_le {h : Int} (hpos : 0 ≤ h) (xs : List Int) (j : Nat) : |dmPrediction h xs j| ≤ j * h := by
  induction j with
  | zero => simp [dmPrediction]
  | succ j ih =>
    have hstep : ((j + 1 : Nat) : Int) * h = j * h + h := by push_cast; ring
    rw [abs_le] at ih ⊢
    rw [dmPrediction, hstep]
    split <;> constructor <;> linarith

/-- Under the constraints of R6 the samples are at most 2^12 and the step is at most 2^30 (R107). -/
theorem steps_lt_of_wf {p : Params} {j : Nat} (hwf : p.wf = true) (hj : j ≤ p.sampCap) :
    (j : Int) * 2 ^ (p.sampleFracBits - 1) < 2 ^ 43 := by
  obtain ⟨hsamp, hfrac⟩ : p.sampCap ≤ 4096 ∧ p.sampleFracBits ≤ 31 := by
    simp only [Params.wf, Bool.and_eq_true, decide_eq_true_eq] at hwf
    omega
  have hstep : (2 : Int) ^ (p.sampleFracBits - 1) ≤ 2 ^ 30 := pow_le_pow_right₀ (by norm_num) (by omega)
  have hcount : (j : Int) ≤ 2 ^ 12 := by norm_num; omega
  calc (j : Int) * 2 ^ (p.sampleFracBits - 1)
      ≤ 2 ^ 12 * 2 ^ 30 := mul_le_mul hcount hstep (by positivity) (by positivity)
    _ < 2 ^ 43 := by norm_num

/-- Settles O10: how the bit function goes on, and the bound of one step for each sample. -/
theorem dmPredictionIsBounded : Obligations.DmPredictionIsBounded := by
  intro p xs j hwf hj h
  obtain ⟨hlow, hhigh⟩ := abs_le.1 (abs_dmPrediction_le (h := h) (by positivity) xs j)
  refine ⟨dmBits_take_append h hj, fun x => dmBits_getElem? h, hlow, hhigh, fun hfit => ?_⟩
  have hsteps : (j : Int) * h < 2 ^ 43 := steps_lt_of_wf hwf (hj.trans hfit)
  constructor <;> linarith

/-! ### How QUANT.DM ends -/

/-- R84, R106: a word of QUANT.DM whose DEPTH is not 0 is illegal. -/
theorem decode_quantDm_depth {depth : Nat} (hlo : 1 ≤ depth) (hhi : depth < 32) :
    decode (BitVec.ofNat 32 (0x11 + depth * 256)) = .error .depthNotZero := by
  have hword : (BitVec.ofNat 32 (0x11 + depth * 256)).toNat = 0x11 + depth * 256 := Nat.mod_eq_of_lt (by omega)
  have hrsv : rsvField (BitVec.ofNat 32 (0x11 + depth * 256)) = 0#19 := by
    apply BitVec.eq_of_toNat_eq
    rw [rsvField_toNat, hword, BitVec.toNat_ofNat]
    omega
  have hop : (opField (BitVec.ofNat 32 (0x11 + depth * 256))).toNat = 0x11 := by
    rw [opField_toNat, hword]
    omega
  have hdepth : depthField (BitVec.ofNat 32 (0x11 + depth * 256)) ≠ 0#5 := by
    intro hzero
    have hnum := congrArg BitVec.toNat hzero
    rw [depthField_toNat, hword, BitVec.toNat_ofNat] at hnum
    omega
  rw [decode, if_neg (not_not_intro hrsv), hop]
  exact if_pos hdepth

/-- R105: with a sample to read, QUANT.DM stores its bit string. -/
theorem exec_quantDm_stores {s : State} {ws : List Word} (hne : ws ≠ []) (hs : HoldsSamples s ws) :
    exec .quantDm s = .next (succeeded (storeSymbols
      ((dmBits (2 ^ (s.params.sampleFracBits - 1)) 0 (ws.map BitVec.toInt)).map symOf) ws.length s)) := by
  refine exec_of_effect_ok ?_
  rw [commandEffect, quantDmEffect, if_neg (hs.sampLen_ne_zero hne), hs.sampleOperand_eq, hs.1]

/-- Settles O9: each cell holds the bit of its sample against the prediction before it. -/
theorem dmEmitsOneBitPerSample : Obligations.DmEmitsOneBitPerSample := by
  refine ⟨decodeOfEncode .quantDm rfl, fun _ => decode_quantDm_depth,
    fun s hlen => exec_of_effect_cmdError (e := .invalidInput) (if_pos hlen), ?_⟩
  intro s ws hne hs
  refine ⟨_, exec_quantDm_stores hne hs, fun j => ?_⟩
  rw [readCell_writeSymbols, dmBits_length, List.length_map]
  split
  case isFalse => rfl
  case isTrue hj =>
    rw [dmBits_getElem? _ (sampleValues_getElem? hj)]
    simp [symOf]

end Sys2Proof.Machine
end

section
/-! PROOFS. The line encoder (41_line_encoder.md). The five encodes share their shape: the bit string read or refused, an output
stored as the voltage sequence; what differs is the output. Its cells are told by how often a level has been inverted, once for
each 1; both Manchester codes are the pairs of NRZ-L's and NRZ-I's levels. -/

namespace Sys2Proof

theorem Trit.inv_inv (x : Trit) : x.inv.inv = x := by cases x <;> rfl

/-- Inverting twice is no change, so only the parity counts. -/
theorem Trit.inv_iterate (n : Nat) (x : Trit) : Trit.inv^[n] x = if n % 2 = 1 then x.inv else x := by
  induction n with
  | zero => rfl
  | succ n ih =>
    rw [Function.iterate_succ_apply', ih]
    by_cases hn : n % 2 = 1
    · rw [if_pos hn, if_neg (by omega), Trit.inv_inv]
    · rw [if_neg hn, if_pos (by omega)]

end Sys2Proof

namespace Sys2Proof.Machine

open Sys2Proof.Statements

/-! ### The bit string read or refused -/

theorem HoldsBits.bitStringOperand_eq {s : State} {bits : List Bool} (h : HoldsBits s bits) (hne : bits ≠ []) :
    bitStringOperand s = .ok bits := by
  obtain ⟨hlen, hcells⟩ := h
  exact bitStringOperand_eq_ok.2 ⟨hne, hlen, fun k hk => hcells k (hlen ▸ hk)⟩

theorem bitStringOperand_empty {s : State} (h : s.symLen = 0) :
    bitStringOperand s = .error (.cmdError .invalidInput) :=
  if_pos h

/-- R11, R120: past symbols, the reading ends as it ends from the cell it has come to. -/
theorem readBits_error_past_symbols {m : Cells Byte} {n k d : Nat} {a : Abort}
    (hsym : ∀ j, j < d → readCell m (k + j) = some 0x30#8 ∨ readCell m (k + j) = some 0x31#8)
    (hend : readBits m (k + d) n = .error a) : readBits m k (n + d) = .error a := by
  induction d generalizing k with
  | zero => exact hend
  | succ d ih =>
    have shift (j : Nat) : k + 1 + j = k + (j + 1) := by omega
    have hrest : readBits m (k + 1) (n + d) = .error a :=
      ih (fun j hj => by rw [shift]; exact hsym (j + 1) (by omega)) (by rw [shift]; exact hend)
    obtain ⟨c, hc, b, hb⟩ : ∃ c, readCell m k = some c ∧ ∃ b, bitOf c = some b := by
      obtain h | h := hsym 0 (by omega)
      · exact ⟨_, h, bitOf_of_symbol (.inl rfl)⟩
      · exact ⟨_, h, bitOf_of_symbol (.inr rfl)⟩
    rw [← Nat.add_assoc, readBits]
    simp only [hc, hb, hrest]

theorem bitStringOperand_badSymbol {s : State} {k : Nat} {c : Byte} (hk : k < s.symLen)
    (hsym : ∀ j, j < k → readCell s.mem.sym j = some 0x30#8 ∨ readCell s.mem.sym j = some 0x31#8)
    (hc : readCell s.mem.sym k = some c) (hzero : c ≠ 0x30#8) (hone : c ≠ 0x31#8) :
    bitStringOperand s = .error (.cmdError .invalidInput) := by
  obtain ⟨n, hn⟩ : ∃ n, s.symLen = (n + 1) + k := ⟨s.symLen - k - 1, by omega⟩
  have hbad : readBits s.mem.sym (0 + k) (n + 1) = .error (.cmdError .invalidInput) := by
    rw [Nat.zero_add, readBits]
    simp only [hc, bitOf_eq_none.2 ⟨hzero, hone⟩]
  rw [bitStringOperand, if_neg (by omega), hn]
  exact readBits_error_past_symbols (by simpa using hsym) hbad

theorem readBits_congr {m₁ m₂ : Cells Byte} {n k : Nat} (h : ∀ j, j < n → readCell m₁ (k + j) = readCell m₂ (k + j)) :
    readBits m₁ k n = readBits m₂ k n := by
  induction n generalizing k with
  | zero => rfl
  | succ n ih =>
    have hrest : readBits m₁ (k + 1) n = readBits m₂ (k + 1) n :=
      ih fun j hj => by rw [show k + 1 + j = k + (j + 1) by omega]; exact h (j + 1) (by omega)
    have hfirst : readCell m₁ k = readCell m₂ k := h 0 (by omega)
    rw [readBits, readBits, hfirst, hrest]

theorem bitStringOperand_congr {s₁ s₂ : State} (hlen : s₁.symLen = s₂.symLen)
    (hcells : ∀ k, k < s₁.symLen → readCell s₁.mem.sym k = readCell s₂.mem.sym k) :
    bitStringOperand s₁ = bitStringOperand s₂ := by
  have hread : readBits s₁.mem.sym 0 s₁.symLen = readBits s₂.mem.sym 0 s₁.symLen :=
    readBits_congr (by simpa using hcells)
  rw [bitStringOperand, bitStringOperand, hread, hlen]

/-! ### What an encode command does -/

/-- The command is `ENC_common(kind, emit)` of R120. -/
def Encodes (i : Instr) (kind : VKind) (emit : List Bool → List Trit) : Prop :=
  ∀ s, commandEffect i s = encodeEffect kind emit s

theorem encodes_encNrzl : Encodes .encNrzl .nrzl emitNrzl := fun _ => rfl
theorem encodes_encNrzi : Encodes .encNrzi .nrzi (emitNrzi .minus) := fun _ => rfl
theorem encodes_encMan : Encodes .encMan .man emitMan := fun _ => rfl
theorem encodes_encDman : Encodes .encDman .dman (emitDman .minus) := fun _ => rfl
theorem encodes_encAmi : Encodes .encAmi .ami (emitAmi .plus) := fun _ => rfl

theorem exists_encodes_of_isEncoder {i : Instr} {kind : VKind} (h : isEncoder i kind) : ∃ emit, Encodes i kind emit := by
  obtain ⟨rfl, rfl⟩ | ⟨rfl, rfl⟩ | ⟨rfl, rfl⟩ | ⟨rfl, rfl⟩ | ⟨rfl, rfl⟩ := h
  · exact ⟨_, encodes_encNrzl⟩
  · exact ⟨_, encodes_encNrzi⟩
  · exact ⟨_, encodes_encMan⟩
  · exact ⟨_, encodes_encDman⟩
  · exact ⟨_, encodes_encAmi⟩

section Encode

variable {i : Instr} {kind : VKind} {emit : List Bool → List Trit} {s : State}

theorem Encodes.exec_of_bits {bits : List Bool} (h : Encodes i kind emit) (hread : bitStringOperand s = .ok bits) :
    exec i s = .next (succeeded (storeVoltages kind (emit bits) s)) := by
  refine exec_of_effect_ok ?_
  rw [h s, encodeEffect, hread]

theorem Encodes.exec_of_cmdError {e : CmdError} (h : Encodes i kind emit)
    (hread : bitStringOperand s = .error (.cmdError e)) : exec i s = .next (failed e.code s) := by
  refine exec_of_effect_cmdError ?_
  rw [h s, encodeEffect, hread]

theorem Encodes.exec_of_fault {f : Fault} (h : Encodes i kind emit)
    (hread : bitStringOperand s = .error (.fault f)) : exec i s = .fault f := by
  rw [exec_eq_fault_iff, h s]
  exact encodeEffect_eq_fault_iff.2 hread

theorem Encodes.rejectsBadStrings (h : Encodes i kind emit) : RejectsBadStrings i :=
  ⟨fun _ hlen => h.exec_of_cmdError (bitStringOperand_empty hlen),
    fun _ _ _ hk hsym hc hzero hone => h.exec_of_cmdError (bitStringOperand_badSymbol hk hsym hc hzero hone)⟩

/-- An encode meets its statement where its output is, cell by cell, the one stated. -/
theorem Encodes.encodesAs {word : Word} {width : Nat} {cell : List Bool → Nat → Trit} (h : Encodes i kind emit)
    (hword : decode word = .ok i) (hlen : ∀ bits, (emit bits).length = width * bits.length)
    (hcell : ∀ bits k, k < width * bits.length → (emit bits)[k]? = some (cell bits k)) :
    EncodesAs i word kind width cell := by
  refine ⟨hword, h.rejectsBadStrings, fun s bits hne hs => ⟨writeCells s.mem.volt 0 (emit bits), ?_, fun k => ?_⟩⟩
  · rw [h.exec_of_bits (hs.bitStringOperand_eq hne), storeVoltages, hlen]
  · rw [readCell_writeCells_zero, hlen]
    exact ite_congr rfl (hcell bits k) fun _ => rfl

end Encode

/-! ### The cells of the outputs -/

theorem onesBefore_cons_succ (b : Bool) (bits : List Bool) (k : Nat) :
    onesBefore (b :: bits) (k + 1) = onesBefore bits k + if b then 1 else 0 := by
  cases b <;> simp [onesBefore]

theorem emitNrzl_getElem? {bits : List Bool} {k : Nat} (hk : k < bits.length) :
    (emitNrzl bits)[k]? = some (nrzlCell bits k) := by
  simp [emitNrzl, nrzlCell, hk]

/-- R122: the level at bit `k` has been inverted once for each 1 up to and with it. -/
theorem emitNrzi_getElem? (level : Trit) {bits : List Bool} {k : Nat} (hk : k < bits.length) :
    (emitNrzi level bits)[k]? = some (Trit.inv^[onesBefore bits (k + 1)] level) := by
  induction bits generalizing level k with
  | nil => cases hk
  | cons b bits ih =>
    rw [onesBefore_cons_succ]
    cases k with
    | zero => cases b <;> rfl
    | succ k =>
      have hlt : k < bits.length := Nat.lt_of_succ_lt_succ hk
      cases b with
      | false => exact ih level hlt
      | true => exact ih level.inv hlt

theorem nrziCell_eq (bits : List Bool) (k : Nat) : nrziCell bits k = Trit.inv^[onesBefore bits (k + 1)] .minus :=
  (Trit.inv_iterate _ _).symm

/-- R125: a mark at bit `k` has the polarity inverted once for each 1 before it. -/
theorem emitAmi_getElem? (polarity : Trit) {bits : List Bool} {k : Nat} (hk : k < bits.length) :
    (emitAmi polarity bits)[k]? =
      some (if bits.getD k false then Trit.inv^[onesBefore bits k] polarity else .zero) := by
  induction bits generalizing polarity k with
  | nil => cases hk
  | cons b bits ih =>
    cases k with
    | zero => cases b <;> rfl
    | succ k =>
      have hlt : k < bits.length := Nat.lt_of_succ_lt_succ hk
      rw [onesBefore_cons_succ, List.getD_cons_succ]
      cases b with
      | false => exact ih polarity hlt
      | true => exact ih polarity.inv hlt

theorem amiCell_eq (bits : List Bool) (k : Nat) :
    amiCell bits k = if bits.getD k false then Trit.inv^[onesBefore bits k] .plus else .zero := by
  rw [amiCell, Trit.inv_iterate]
  obtain heven | hodd := Nat.mod_two_eq_zero_or_one (onesBefore bits k)
  · rw [heven]
    rfl
  · rw [hodd]
    rfl

/-- The two halves of a bit in a Manchester code: the level and, before it, its negation. -/
def halves (level : Trit) : List Trit := [level.inv, level]

theorem halves_getElem? (level : Trit) {t : Nat} (ht : t < 2) :
    (halves level)[t]? = some (if t = 1 then level else level.inv) := by
  obtain rfl | rfl : t = 0 ∨ t = 1 := by omega
  · rfl
  · rfl

/-- R123: Manchester is the halves of the levels of NRZ-L. -/
theorem emitMan_eq_halves (bits : List Bool) : emitMan bits = (emitNrzl bits).flatMap halves := by
  rw [emitMan, emitNrzl, List.flatMap_map]
  congr 1
  funext b
  cases b <;> rfl

/-- R124: Differential Manchester is the halves of the levels of NRZ-I. -/
theorem emitDman_eq_halves (level : Trit) (bits : List Bool) :
    emitDman level bits = (emitNrzi level bits).flatMap halves := by
  induction bits generalizing level with
  | nil => rfl
  | cons b bits ih =>
    cases b with
    | false => simp [emitDman, emitNrzi, halves, Trit.inv_inv, ih]
    | true => simp [emitDman, emitNrzi, halves, Trit.inv_inv, ih]

theorem flatMap_halves_getElem? {levels : List Trit} {m : Nat} {level : Trit} (h : levels[m / 2]? = some level) :
    (levels.flatMap halves)[m]? = some (if m % 2 = 1 then level else level.inv) := by
  rw [getElem?_flatMap_of_width Nat.two_pos (fun _ => rfl), h]
  exact halves_getElem? level (Nat.mod_lt m Nat.two_pos)

theorem manCell_eq (bits : List Bool) (m : Nat) :
    manCell bits m = if m % 2 = 1 then nrzlCell bits (m / 2) else (nrzlCell bits (m / 2)).inv := by
  unfold manCell nrzlCell
  by_cases hm : m % 2 = 1
  · simp [hm]
  · cases bits.getD (m / 2) false <;> simp [hm, Trit.inv]

/-! ### The five encodes -/

/-- Settles O11: NRZ-L is bit by bit. -/
theorem nrzlEncodesEachBit : Obligations.NrzlEncodesEachBit :=
  encodes_encNrzl.encodesAs (decodeOfEncode .encNrzl rfl) (fun bits => by rw [emitNrzl_length, Nat.one_mul])
    fun _ _ hk => emitNrzl_getElem? (by rwa [Nat.one_mul] at hk)

/-- Settles O12: the level is -1 inverted once for each 1, which its parity tells. -/
theorem nrziInvertsOnOnes : Obligations.NrziInvertsOnOnes :=
  encodes_encNrzi.encodesAs (decodeOfEncode .encNrzi rfl) (fun bits => by rw [emitNrzi_length, Nat.one_mul])
    fun bits k hk => by
      rw [nrziCell_eq]
      exact emitNrzi_getElem? .minus (by rwa [Nat.one_mul] at hk)

/-- Settles O13: each bit's pair is the halves of its NRZ-L level. -/
theorem manchesterEncodesPairs : Obligations.ManchesterEncodesPairs :=
  encodes_encMan.encodesAs (decodeOfEncode .encMan rfl) emitMan_length fun bits m hm => by
    rw [emitMan_eq_halves, manCell_eq]
    exact flatMap_halves_getElem? (emitNrzl_getElem? (Nat.div_lt_of_lt_mul hm))

/-- Settles O14: each bit's pair is the halves of its NRZ-I level. -/
theorem differentialManchesterEncodesPairs : Obligations.DifferentialManchesterEncodesPairs :=
  encodes_encDman.encodesAs (decodeOfEncode .encDman rfl) (emitDman_length .minus) fun bits m hm => by
    rw [emitDman_eq_halves, dmanCell, nrziCell_eq]
    exact flatMap_halves_getElem? (emitNrzi_getElem? .minus (Nat.div_lt_of_lt_mul hm))

/-- Settles O15: a mark is +1 inverted once for each 1 before it, which its parity tells. -/
theorem amiAlternatesMarks : Obligations.AmiAlternatesMarks :=
  encodes_encAmi.encodesAs (decodeOfEncode .encAmi rfl) (fun bits => by rw [emitAmi_length, Nat.one_mul])
    fun bits k hk => by
      rw [amiCell_eq]
      exact emitAmi_getElem? .plus (by rwa [Nat.one_mul] at hk)

/-! ### The shapes of the outputs (R126) -/

/-- The voltage sequence a successful encode leaves. -/
theorem exists_next_of_encodesAs {i : Instr} {word : Word} {kind : VKind} {width : Nat} {cell : List Bool → Nat → Trit}
    {s : State} {bits : List Bool} (h : EncodesAs i word kind width cell) (hne : bits ≠ []) (hs : HoldsBits s bits) :
    ∃ t, exec i s = .next t ∧ t.voltLen = width * bits.length
      ∧ ∀ k, k < width * bits.length → readCell t.mem.volt k = some (cell bits k) := by
  obtain ⟨-, -, hstores⟩ := h
  obtain ⟨volt, hexec, hcells⟩ := hstores s bits hne hs
  exact ⟨_, hexec, rfl, fun k hk => (hcells k).trans (if_pos hk)⟩

/-- A voltage that is not 0. -/
def IsMark (x : Trit) : Prop := x = .plus ∨ x = .minus

theorem isMark_ite (c : Prop) [Decidable c] : IsMark (if c then .plus else .minus) := by
  split
  · exact .inl rfl
  · exact .inr rfl

theorem nrzlCell_isMark (bits : List Bool) (k : Nat) : IsMark (nrzlCell bits k) := isMark_ite _

theorem nrziCell_isMark (bits : List Bool) (k : Nat) : IsMark (nrziCell bits k) := isMark_ite _

/-- The halves of a mark are opposite marks. -/
theorem IsMark.halves_opposite {level : Trit} (h : IsMark level) :
    (level.inv = .plus ∧ level = .minus) ∨ (level.inv = .minus ∧ level = .plus) := by
  obtain rfl | rfl := h
  · exact .inr ⟨rfl, rfl⟩
  · exact .inl ⟨rfl, rfl⟩

/-- A code whose pairs are the halves of marks. -/
theorem exists_pairs_of_encodesAs {i : Instr} {word : Word} {kind : VKind} {cell level : List Bool → Nat → Trit} {s : State}
    {bits : List Bool} (h : EncodesAs i word kind 2 cell) (hne : bits ≠ []) (hs : HoldsBits s bits)
    (hcell : ∀ m, cell bits m = if m % 2 = 1 then level bits (m / 2) else (level bits (m / 2)).inv)
    (hmark : ∀ k, IsMark (level bits k)) :
    ∃ t, exec i s = .next t ∧ t.voltLen = 2 * bits.length
      ∧ ∀ k, k < bits.length →
          (readCell t.mem.volt (2 * k) = some .plus ∧ readCell t.mem.volt (2 * k + 1) = some .minus)
          ∨ (readCell t.mem.volt (2 * k) = some .minus ∧ readCell t.mem.volt (2 * k + 1) = some .plus) := by
  obtain ⟨t, hexec, hlen, hcells⟩ := exists_next_of_encodesAs h hne hs
  refine ⟨t, hexec, hlen, fun k hk => ?_⟩
  have hfirst : cell bits (2 * k) = (level bits k).inv := by
    rw [hcell, if_neg (by omega), show 2 * k / 2 = k by omega]
  have hsecond : cell bits (2 * k + 1) = level bits k := by
    rw [hcell, if_pos (by omega), show (2 * k + 1) / 2 = k by omega]
  rw [hcells (2 * k) (by omega), hcells (2 * k + 1) (by omega), hfirst, hsecond]
  simpa only [Option.some.injEq] using (hmark k).halves_opposite

/-- An output of one mark for each bit. -/
theorem exists_marks_of_encodesAs {i : Instr} {word : Word} {kind : VKind} {cell : List Bool → Nat → Trit} {s : State}
    {bits : List Bool} (h : EncodesAs i word kind 1 cell) (hne : bits ≠ []) (hs : HoldsBits s bits)
    (hmark : ∀ k, IsMark (cell bits k)) :
    ∃ t, exec i s = .next t ∧ t.voltLen = bits.length
      ∧ ∀ k, k < bits.length → readCell t.mem.volt k = some .plus ∨ readCell t.mem.volt k = some .minus := by
  obtain ⟨t, hexec, hlen, hcells⟩ := exists_next_of_encodesAs h hne hs
  rw [Nat.one_mul] at hlen hcells
  refine ⟨t, hexec, hlen, fun k hk => ?_⟩
  rw [hcells k hk]
  exact (hmark k).imp (congrArg some) (congrArg some)

theorem onesBefore_succ (bits : List Bool) (k : Nat) :
    onesBefore bits (k + 1) = onesBefore bits k + if bits.getD k false then 1 else 0 := by
  rw [onesBefore, List.take_add_one, List.count_append, ← onesBefore, List.getD_eq_getElem?_getD]
  obtain h | ⟨b, h⟩ := Option.eq_none_or_eq_some bits[k]?
  · rw [h]
    rfl
  · rw [h]
    cases b <;> rfl

/-- R125: AMI gives 0 for a 0 and for nothing else. -/
theorem amiCell_eq_zero_iff {bits : List Bool} {k : Nat} : amiCell bits k = .zero ↔ bits.getD k false = false := by
  unfold amiCell
  cases bits.getD k false with
  | false => simp
  | true => by_cases heven : onesBefore bits k % 2 = 0 <;> simp [heven]

theorem amiCell_of_mark {bits : List Bool} {k : Nat} (h : amiCell bits k ≠ .zero) :
    amiCell bits k = Trit.inv^[onesBefore bits k] .plus ∧ onesBefore bits (k + 1) = onesBefore bits k + 1 := by
  have hone : bits.getD k false = true := by rwa [Ne, amiCell_eq_zero_iff, Bool.not_eq_false] at h
  exact ⟨by rw [amiCell_eq, if_pos hone], by rw [onesBefore_succ, if_pos hone]⟩

/-- Over a stretch of AMI zeros the count of ones stands still. -/
theorem onesBefore_eq_of_zeros {bits : List Bool} {j k : Nat} (hjk : j ≤ k)
    (hzero : ∀ m, j ≤ m → m < k → amiCell bits m = .zero) : onesBefore bits k = onesBefore bits j := by
  induction k, hjk using Nat.le_induction with
  | base => rfl
  | succ k hjk ih =>
    have hbit : bits.getD k false = false := amiCell_eq_zero_iff.1 (hzero k hjk (Nat.lt_succ_self k))
    rw [onesBefore_succ, hbit]
    exact ih fun m hle hlt => hzero m hle (by omega)

theorem amiCell_first {bits : List Bool} {k : Nat} (hzero : ∀ j, j < k → amiCell bits j = .zero) :
    amiCell bits k = .zero ∨ amiCell bits k = .plus := by
  refine or_iff_not_imp_left.2 fun hmark => ?_
  have hnone : onesBefore bits k = 0 := onesBefore_eq_of_zeros (Nat.zero_le k) fun m _ => hzero m
  obtain ⟨hcell, -⟩ := amiCell_of_mark hmark
  rw [hcell, hnone]
  rfl

theorem amiCell_alternates {bits : List Bool} {j k : Nat} (hjk : j < k) (hj : amiCell bits j ≠ .zero)
    (hk : amiCell bits k ≠ .zero) (hzero : ∀ m, j < m → m < k → amiCell bits m = .zero) :
    amiCell bits k = (amiCell bits j).inv := by
  have hcount : onesBefore bits k = onesBefore bits (j + 1) := onesBefore_eq_of_zeros hjk hzero
  obtain ⟨hcellj, hcountj⟩ := amiCell_of_mark hj
  obtain ⟨hcellk, -⟩ := amiCell_of_mark hk
  rw [hcellk, hcount, hcountj, Function.iterate_succ_apply', hcellj]

/-- Settles O16: the levels of NRZ and both Manchester codes are marks; AMI's marks alternate from +1. -/
theorem encodingsHaveTheStatedShape : Obligations.EncodingsHaveTheStatedShape := by
  intro s bits hne hs
  refine ⟨exists_marks_of_encodesAs nrzlEncodesEachBit hne hs (nrzlCell_isMark bits),
    exists_marks_of_encodesAs nrziInvertsOnOnes hne hs (nrziCell_isMark bits),
    exists_pairs_of_encodesAs manchesterEncodesPairs hne hs (manCell_eq bits) (nrzlCell_isMark bits),
    exists_pairs_of_encodesAs differentialManchesterEncodesPairs hne hs (fun _ => rfl) (nrziCell_isMark bits), ?_⟩
  obtain ⟨t, hexec, hlen, hcells⟩ := exists_next_of_encodesAs amiAlternatesMarks hne hs
  rw [Nat.one_mul] at hlen hcells
  refine ⟨t, hexec, hlen, fun k hk hzero => ?_, fun j k a b hjk hk ha hb hmarka hmarkb hzero => ?_⟩
  · rw [hcells k hk]
    refine (amiCell_first fun j hj => ?_).imp (congrArg some) (congrArg some)
    exact Option.some.inj ((hcells j (by omega)).symm.trans (hzero j hj))
  · obtain rfl : amiCell bits j = a := Option.some.inj ((hcells j (by omega)).symm.trans ha)
    obtain rfl : amiCell bits k = b := Option.some.inj ((hcells k hk).symm.trans hb)
    refine amiCell_alternates hjk hmarka hmarkb fun m hjm hmk => ?_
    exact Option.some.inj ((hcells m (by omega)).symm.trans (hzero m hjm hmk))

/-! ### Nothing but the bit string counts (R126, R214) -/

/-- Settles O17: the two runs read the same operand, so both store the same output or report the same error. -/
theorem encodeDependsOnTheBitStringAlone : Obligations.EncodeDependsOnTheBitStringAlone := by
  intro i kind s₁ s₂ t₁ t₂ hi hlen hcells h₁ h₂
  obtain ⟨emit, henc⟩ := exists_encodes_of_isEncoder hi
  have hsame := bitStringOperand_congr hlen hcells
  cases hread : bitStringOperand s₁ with
  | ok bits =>
    rw [henc.exec_of_bits hread] at h₁
    rw [henc.exec_of_bits (hsame ▸ hread)] at h₂
    cases h₁
    cases h₂
    refine ⟨rfl, fun _ => ⟨rfl, rfl, rfl, fun k hk => ?_⟩⟩
    have hk : k < (emit bits).length := hk
    simp only [succeeded, storeVoltages_mem, readCell_writeCells_zero, if_pos hk]
  | error a =>
    cases a with
    | cmdError e =>
      rw [henc.exec_of_cmdError hread] at h₁
      rw [henc.exec_of_cmdError (hsame ▸ hread)] at h₂
      cases h₁
      cases h₂
      exact ⟨rfl, fun hok => (e.code_ne_ok hok).elim⟩
    | fault f =>
      rw [henc.exec_of_fault hread] at h₁
      cases h₁

end Sys2Proof.Machine
end

section
/-! PROOFS. The scrambler (42_scrambler.md). Both scrambles are one scan with a pattern of their own: at each cursor position a
window of zeros is replaced by the pattern, or one cell is passed (R141 to R143). The scan in place and the scan over a copy are
shown to be that scan once; what R145 and R146 say of the output is then an induction over it. -/

namespace Sys2Proof.Machine

open Sys2Proof.Statements

/-! ### What a scramble command does -/

/-- The command is the scramble of R140 with this scan. -/
def Scrambles (i : Instr) (kind : VKind) (scan : List Trit → List Trit) : Prop :=
  ∀ s, commandEffect i s = scrambleEffect kind scan s

theorem scrambles_scrB8zs : Scrambles .scrB8zs .amiB8zs b8zs := fun _ => rfl
theorem scrambles_scrHdb3 : Scrambles .scrHdb3 .amiHdb3 hdb3 := fun _ => rfl

section Scramble

variable {i : Instr} {kind : VKind} {scan : List Trit → List Trit} {s t : State}

theorem Scrambles.exec_of_kind_ne (h : Scrambles i kind scan) (hkind : s.vkind ≠ .ami) :
    exec i s = .next (failed .unsupportedTransition s) := by
  refine exec_of_effect_cmdError (e := .unsupportedTransition) ?_
  rw [h s, scrambleEffect, if_pos hkind]

theorem Scrambles.exec_of_volts {v : List Trit} (h : Scrambles i kind scan) (hkind : s.vkind = .ami)
    (hv : HoldsVolts s v) : exec i s = .next (succeeded (storeScrambled kind (scan v) s)) := by
  obtain ⟨hlen, hcells⟩ := hv
  have hread : voltageOperand s = .ok v := voltageOperand_eq_ok.2 ⟨hlen, fun k hk => hcells k (hlen ▸ hk)⟩
  refine exec_of_effect_ok ?_
  rw [h s, scrambleEffect, if_neg (not_not_intro hkind), hread]

/-- A scramble that succeeds has stored the scan of the sequence it found. -/
theorem Scrambles.of_exec_ok (h : Scrambles i kind scan) (ht : exec i s = .next t) (hok : t.err = .ok) :
    ∃ v, voltageOperand s = .ok v ∧ t = complete (storeScrambled kind (scan v) s) := by
  obtain ⟨u, hu, rfl⟩ | ⟨e, rfl⟩ := exec_eq_next ht
  · obtain ⟨-, v, hv, rfl⟩ := scrambleEffect_eq_ok ((h s).symm.trans hu)
    exact ⟨v, hv, rfl⟩
  · exact (e.code_ne_ok hok).elim

/-- A scramble meets its statement where its scan gives the output stated. -/
theorem Scrambles.scramblesAs {word : Word} {out : List Trit → List Trit} (h : Scrambles i kind scan)
    (hword : decode word = .ok i) (hlen : ∀ v, (scan v).length = v.length) (hout : ∀ v, scan v = out v) :
    ScramblesAs i word kind out := by
  obtain rfl := funext hout
  refine ⟨hword, fun _ => h.exec_of_kind_ne, fun s v hkind hv => ?_⟩
  refine ⟨writeCells s.mem.volt 0 (scan v), h.exec_of_volts hkind hv, hlen v, fun k => ?_⟩
  rw [readCell_writeCells_zero, hlen]

/-- After a success VOLT holds the output. -/
theorem Scrambles.holdsVolts_of_exec_ok (h : Scrambles i kind scan) (hlen : ∀ v, (scan v).length = v.length)
    (ht : exec i s = .next t) (hok : t.err = .ok) : ∃ v, HoldsVolts t (scan v) := by
  obtain ⟨v, hv, rfl⟩ := h.of_exec_ok ht hok
  refine ⟨v, (voltageOperand_length hv).symm.trans (hlen v).symm, fun k hk => ?_⟩
  rw [complete_mem, storeScrambled_mem, readCell_writeCells_zero, if_pos hk]

end Scramble

/-- Each scrambler of R28 is a scramble, and leaves another kind than AMI. -/
theorem exists_scrambles_of_isScrambler {i : Instr} {kind : VKind} {window : Nat} (h : isScrambler i kind window) :
    (∃ scan, Scrambles i kind scan) ∧ kind ≠ .ami := by
  obtain ⟨rfl, rfl, -⟩ | ⟨rfl, rfl, -⟩ := h
  · exact ⟨⟨_, scrambles_scrB8zs⟩, nofun⟩
  · exact ⟨⟨_, scrambles_scrHdb3⟩, nofun⟩

/-- Settles O26: a success leaves the scramble's own kind, which both scrambles refuse. -/
theorem scrambleAgainFails : Obligations.ScrambleAgainFails := by
  intro i j ki kj wi wj s t hi hj ht hok
  obtain ⟨⟨scan, hscan⟩, hkind⟩ := exists_scrambles_of_isScrambler hi
  obtain ⟨⟨_, hagain⟩, -⟩ := exists_scrambles_of_isScrambler hj
  obtain ⟨v, -, rfl⟩ := hscan.of_exec_ok ht hok
  exact hagain.exec_of_kind_ne hkind

/-! ### Windows of zeros -/

theorem zeroRun_zero_iff {v : List Trit} {width : Nat} :
    ZeroRun v 0 width ↔ v.take width = List.replicate width .zero := by
  constructor
  · rintro ⟨hfits, hcells⟩
    refine List.ext_getElem? fun k => ?_
    rw [List.getElem?_take, List.getElem?_replicate]
    refine ite_congr rfl (fun hk => ?_) fun _ => rfl
    simpa using hcells k hk
  · intro h
    have hfits : width ≤ v.length := by simpa using congrArg List.length h
    refine ⟨by omega, fun t ht => ?_⟩
    have hcell := congrArg (·[t]?) h
    simpa [ht] using hcell

theorem zeroRun_append {pre v : List Trit} {start width : Nat} :
    ZeroRun (pre ++ v) (pre.length + start) width ↔ ZeroRun v start width := by
  simp [ZeroRun, Nat.add_assoc, List.getElem?_append_right]

/-- A cursor at the end of `pre` tests the cells after it. -/
theorem zeroRun_cursor {pre v : List Trit} {width : Nat} :
    ZeroRun (pre ++ v) pre.length width ↔ ZeroRun v 0 width := zeroRun_append (start := 0)

theorem zeroRun_window (rest : List Trit) (width : Nat) : ZeroRun (List.replicate width .zero ++ rest) 0 width :=
  zeroRun_zero_iff.2 (by simp)

/-! ### The scan -/

/-- last_polarity after a cell is passed: its sign if it is a mark (R141). -/
def polarityPast (last x : Trit) : Trit := if x = .zero then last else x

/-- ones_count after a cell is passed: one more if it is a mark (R142). -/
def onesPast (ones : Nat) (x : Trit) : Nat := if x = .zero then ones else ones + 1

/-- The scan of R141 to R143 for windows of `width` zeros and a pattern: from last_polarity and ones_count (which B8ZS does not
read) it takes the sequence to the output. -/
inductive ScansTo (width : Nat) (pattern : Trit → Nat → List Trit) : Trit → Nat → List Trit → List Trit → Prop
  | nil (last : Trit) (ones : Nat) : ScansTo width pattern last ones [] []
  | window {last : Trit} {ones : Nat} {rest out : List Trit} (h : ScansTo width pattern last.inv 1 rest out) :
      ScansTo width pattern last ones (List.replicate width .zero ++ rest) (pattern last ones ++ out)
  | cell {last : Trit} {ones : Nat} {x : Trit} {rest out : List Trit} (hrun : ¬ZeroRun (x :: rest) 0 width)
      (h : ScansTo width pattern (polarityPast last x) (onesPast ones x) rest out) :
      ScansTo width pattern last ones (x :: rest) (x :: out)

/-- B8ZS's pattern of eight cells (R141). -/
def b8zsPattern (last : Trit) (_ones : Nat) : List Trit :=
  [.zero, .zero, .zero, last, last.inv, .zero, last, last.inv]

/-- HDB3's pattern of four cells, in its even and its odd form (R142). -/
def hdb3Pattern (last : Trit) (ones : Nat) : List Trit :=
  [if ones % 2 = 0 then last.inv else .zero, .zero, .zero, last]

/-- The scan comes to an output from every sequence: a window or a cell is passed at each turn. -/
theorem exists_scansTo {width : Nat} (hwidth : 0 < width) (pattern : Trit → Nat → List Trit) (last : Trit) (ones : Nat)
    (v : List Trit) : ∃ out, ScansTo width pattern last ones v out := by
  match v with
  | [] => exact ⟨[], .nil last ones⟩
  | x :: rest =>
    by_cases hrun : ZeroRun (x :: rest) 0 width
    · obtain ⟨out, h⟩ := exists_scansTo hwidth pattern last.inv 1 ((x :: rest).drop width)
      refine ⟨pattern last ones ++ out, ?_⟩
      rw [← List.take_append_drop width (x :: rest), zeroRun_zero_iff.1 hrun]
      exact .window h
    · obtain ⟨out, h⟩ := exists_scansTo hwidth pattern (polarityPast last x) (onesPast ones x) rest
      exact ⟨x :: out, .cell hrun h⟩
termination_by v.length
decreasing_by
  · simp only [List.length_drop, List.length_cons]
    omega
  · simp

/-! ### The scan in place is the scan -/

theorem lastAfter_cell (pre rest : List Trit) (x last : Trit) :
    lastAfter (pre ++ x :: rest) pre.length last = polarityPast last x := by
  cases x <;> simp [lastAfter, polarityPast]

theorem onesAfter_cell (pre rest : List Trit) (x : Trit) (ones : Nat) :
    onesAfter (pre ++ x :: rest) pre.length ones = onesPast ones x := by
  cases x <;> simp [onesAfter, onesPast]

theorem b8zsSubstitute_window (pre rest : List Trit) (last : Trit) (ones : Nat) :
    b8zsSubstitute (pre ++ (List.replicate 8 .zero ++ rest)) pre.length last
      = pre ++ b8zsPattern last ones ++ rest := by
  simp [b8zsSubstitute, b8zsPattern, List.replicate]

theorem hdb3Substitute_window (pre rest : List Trit) (last : Trit) (ones : Nat) :
    hdb3Substitute (pre ++ (List.replicate 4 .zero ++ rest)) pre.length ones last
      = pre ++ hdb3Pattern last ones ++ rest := by
  by_cases heven : ones % 2 = 0
  · simp [hdb3Substitute, hdb3Pattern, heven, List.replicate]
  · simp [hdb3Substitute, hdb3Pattern, heven, List.replicate]

/-- Past the last feasible window nothing is rewritten (R143). -/
theorem b8zsScan_end {v : List Trit} {i : Nat} (fuel : Nat) (last : Trit) (h : ¬i + 8 ≤ v.length) :
    b8zsScan fuel i last v = v := by
  cases fuel with
  | zero => rfl
  | succ fuel => exact if_neg h

theorem hdb3Scan_end {v : List Trit} {i : Nat} (fuel : Nat) (last : Trit) (ones : Nat) (h : ¬i + 4 ≤ v.length) :
    hdb3Scan fuel i last ones v = v := by
  cases fuel with
  | zero => rfl
  | succ fuel => exact if_neg h

theorem b8zsScan_succ (fuel i : Nat) (last : Trit) (v : List Trit) [Decidable (ZeroRun v i 8)] :
    b8zsScan (fuel + 1) i last v =
      if ZeroRun v i 8 then b8zsScan fuel (i + 8) last.inv (b8zsSubstitute v i last)
      else b8zsScan fuel (i + 1) (lastAfter v i last) v := by
  rw [b8zsScan]
  by_cases hfits : i + 8 ≤ v.length
  · simp only [hfits, windowZero_iff, ZeroRun, true_and, if_true]
  · rw [if_neg hfits, if_neg fun h => hfits h.1, b8zsScan_end _ _ (by omega)]

theorem hdb3Scan_succ (fuel i : Nat) (last : Trit) (ones : Nat) (v : List Trit) [Decidable (ZeroRun v i 4)] :
    hdb3Scan (fuel + 1) i last ones v =
      if ZeroRun v i 4 then hdb3Scan fuel (i + 4) last.inv 1 (hdb3Substitute v i ones last)
      else hdb3Scan fuel (i + 1) (lastAfter v i last) (onesAfter v i ones) v := by
  rw [hdb3Scan]
  by_cases hfits : i + 4 ≤ v.length
  · simp only [hfits, windowZero_iff, ZeroRun, true_and, if_true]
  · rw [if_neg hfits, if_neg fun h => hfits h.1, hdb3Scan_end _ _ _ (by omega)]

/-- R141: from a cursor at the end of `pre`, with a turn for each cell left, B8ZS in place rewrites the rest to the output. -/
theorem ScansTo.b8zsScan_eq {last : Trit} {ones : Nat} {v out : List Trit} (h : ScansTo 8 b8zsPattern last ones v out)
    {fuel : Nat} (hfuel : v.length ≤ fuel) (pre : List Trit) :
    b8zsScan fuel pre.length last (pre ++ v) = pre ++ out := by
  classical
  induction h generalizing fuel pre with
  | nil last ones => exact b8zsScan_end _ _ (by simp)
  | @window last ones rest out h ih =>
    simp only [List.length_append, List.length_replicate] at hfuel
    obtain ⟨fuel, rfl⟩ := Nat.exists_eq_add_of_le' (show 1 ≤ fuel by omega)
    rw [b8zsScan_succ, if_pos (zeroRun_cursor.2 (zeroRun_window rest 8)), b8zsSubstitute_window pre rest last ones]
    simpa [b8zsPattern] using ih (show rest.length ≤ fuel by omega) (pre ++ b8zsPattern last ones)
  | @cell last ones x rest out hrun h ih =>
    rw [List.length_cons] at hfuel
    obtain ⟨fuel, rfl⟩ := Nat.exists_eq_add_of_le' (show 1 ≤ fuel by omega)
    rw [b8zsScan_succ, if_neg (mt zeroRun_cursor.1 hrun), lastAfter_cell]
    simpa using ih (show rest.length ≤ fuel by omega) (pre ++ [x])

/-- R142: HDB3 in place likewise. -/
theorem ScansTo.hdb3Scan_eq {last : Trit} {ones : Nat} {v out : List Trit} (h : ScansTo 4 hdb3Pattern last ones v out)
    {fuel : Nat} (hfuel : v.length ≤ fuel) (pre : List Trit) :
    hdb3Scan fuel pre.length last ones (pre ++ v) = pre ++ out := by
  classical
  induction h generalizing fuel pre with
  | nil last ones => exact hdb3Scan_end _ _ _ (by simp)
  | @window last ones rest out h ih =>
    simp only [List.length_append, List.length_replicate] at hfuel
    obtain ⟨fuel, rfl⟩ := Nat.exists_eq_add_of_le' (show 1 ≤ fuel by omega)
    rw [hdb3Scan_succ, if_pos (zeroRun_cursor.2 (zeroRun_window rest 4)), hdb3Substitute_window]
    simpa [hdb3Pattern] using ih (show rest.length ≤ fuel by omega) (pre ++ hdb3Pattern last ones)
  | @cell last ones x rest out hrun h ih =>
    rw [List.length_cons] at hfuel
    obtain ⟨fuel, rfl⟩ := Nat.exists_eq_add_of_le' (show 1 ≤ fuel by omega)
    rw [hdb3Scan_succ, if_neg (mt zeroRun_cursor.1 hrun), lastAfter_cell, onesAfter_cell]
    simpa using ih (show rest.length ≤ fuel by omega) (pre ++ [x])

theorem ScansTo.b8zs_eq {v out : List Trit} (h : ScansTo 8 b8zsPattern .plus 0 v out) : b8zs v = out :=
  h.b8zsScan_eq (Nat.le_refl _) []

theorem ScansTo.hdb3_eq {v out : List Trit} (h : ScansTo 4 hdb3Pattern .plus 0 v out) : hdb3 v = out :=
  h.hdb3Scan_eq (Nat.le_refl _) []

/-! ### The scan over a copy is the scan -/

/-- R144: at a window the copy writes the pattern, cell by cell; elsewhere it copies the cell. -/
theorem ScansTo.b8zsCopy_eq {last : Trit} {ones : Nat} {v out : List Trit} (h : ScansTo 8 b8zsPattern last ones v out) :
    b8zsCopy last [] v = out := by
  induction h with
  | nil last ones => rfl
  | window h ih => simp [b8zsCopy, b8zsPattern, List.replicate, ih]
  | cell hrun h ih =>
    rw [b8zsCopy, if_neg (mt zeroRun_zero_iff.2 hrun)]
    exact congrArg _ ih

theorem ScansTo.hdb3Copy_eq {last : Trit} {ones : Nat} {v out : List Trit} (h : ScansTo 4 hdb3Pattern last ones v out) :
    hdb3Copy last ones [] v = out := by
  induction h with
  | nil last ones => rfl
  | window h ih => simp [hdb3Copy, hdb3Pattern, List.replicate, ih]
  | cell hrun h ih =>
    rw [hdb3Copy, if_neg (mt zeroRun_zero_iff.2 hrun)]
    exact congrArg _ ih

/-- Settles O21: both ways of each scramble are the one scan, which comes to an output from every sequence. -/
theorem inPlaceEqualsCopy : Obligations.InPlaceEqualsCopy := by
  intro v
  obtain ⟨out8, h8⟩ := exists_scansTo (width := 8) (by decide) b8zsPattern .plus 0 v
  obtain ⟨out4, h4⟩ := exists_scansTo (width := 4) (by decide) hdb3Pattern .plus 0 v
  exact ⟨h8.b8zs_eq.trans h8.b8zsCopy_eq.symm, h4.hdb3_eq.trans h4.hdb3Copy_eq.symm⟩

/-- Settles O19: the machine's scan gives what the scan over a copy gives. -/
theorem b8zsSubstitutesWindows : Obligations.B8zsSubstitutesWindows :=
  scrambles_scrB8zs.scramblesAs (by decide) b8zs_length fun v => (inPlaceEqualsCopy v).1

/-- Settles O20: the machine's scan gives what the scan over a copy gives. -/
theorem hdb3SubstitutesWindows : Obligations.Hdb3SubstitutesWindows :=
  scrambles_scrHdb3.scramblesAs (by decide) hdb3_length fun v => (inPlaceEqualsCopy v).2

/-! ### The net charge -/

theorem netCharge_append (v w : List Trit) : netCharge (v ++ w) = netCharge v + netCharge w := by
  simp [netCharge]

/-- R146: B8ZS's pattern holds as many marks of either sign. -/
theorem netCharge_b8zsPattern (last : Trit) (ones : Nat) : netCharge (b8zsPattern last ones) = 0 := by
  cases last <;> rfl

theorem ScansTo.netCharge_eq {last : Trit} {ones : Nat} {v out : List Trit} (h : ScansTo 8 b8zsPattern last ones v out) :
    netCharge out = netCharge v := by
  induction h with
  | nil last ones => rfl
  | window h ih =>
    rw [netCharge_append, netCharge_append, ih, netCharge_b8zsPattern]
    rfl
  | @cell last ones x rest out hrun h ih =>
    rw [← List.singleton_append, netCharge_append, ih, ← netCharge_append, List.singleton_append]

/-- Settles O24: a window and its pattern both have no charge. -/
theorem b8zsKeepsNetCharge : Obligations.B8zsKeepsNetCharge := by
  intro v
  obtain ⟨out, h⟩ := exists_scansTo (width := 8) (by decide) b8zsPattern .plus 0 v
  rw [h.b8zs_eq, h.netCharge_eq]

/-! ### The zero runs left -/

/-- R141, R142: last_polarity, once a mark, stays one. -/
theorem IsMark.inv {x : Trit} (h : IsMark x) : IsMark x.inv := by
  obtain rfl | rfl := h
  · exact .inr rfl
  · exact .inl rfl

theorem IsMark.polarityPast {last : Trit} (h : IsMark last) (x : Trit) : IsMark (polarityPast last x) := by
  cases x with
  | minus => exact .inr rfl
  | zero => exact h
  | plus => exact .inl rfl

theorem IsMark.ne_zero {x : Trit} (h : IsMark x) : x ≠ .zero := by
  obtain rfl | rfl := h <;> decide

/-- The pattern fills its window and, last_polarity being a mark, ends in one. -/
structure EndsInMark (width : Nat) (pattern : Trit → Nat → List Trit) : Prop where
  length_eq : ∀ last ones, (pattern last ones).length = width
  last_ne_zero : ∀ last ones, IsMark last → (pattern last ones)[width - 1]? ≠ some .zero

theorem endsInMark_b8zsPattern : EndsInMark 8 b8zsPattern :=
  ⟨fun _ _ => rfl, fun _ _ hlast => by simpa [b8zsPattern] using hlast.inv.ne_zero⟩

theorem endsInMark_hdb3Pattern : EndsInMark 4 hdb3Pattern :=
  ⟨fun _ _ => rfl, fun _ _ hlast => by simpa [hdb3Pattern] using hlast.ne_zero⟩

section Scan

variable {width : Nat} {pattern : Trit → Nat → List Trit} {last : Trit} {ones : Nat} {v out : List Trit}

theorem ScansTo.length_eq (h : ScansTo width pattern last ones v out) (hpat : EndsInMark width pattern) :
    out.length = v.length := by
  induction h with
  | nil last ones => rfl
  | window h ih => rw [List.length_append, List.length_append, ih, hpat.length_eq, List.length_replicate]
  | cell hrun h ih => rw [List.length_cons, List.length_cons, ih]

/-- The scan makes no zeros: where the output is 0 the input is. -/
theorem ScansTo.zero_of_zero (h : ScansTo width pattern last ones v out) (hpat : EndsInMark width pattern) {k : Nat}
    (hk : out[k]? = some .zero) : v[k]? = some .zero := by
  induction h generalizing k with
  | nil last ones => exact hk
  | window h ih =>
    by_cases hin : k < width
    · rw [List.getElem?_append_left (by simpa), List.getElem?_replicate, if_pos hin]
    · rw [List.getElem?_append_right (by rw [hpat.length_eq]; omega), hpat.length_eq] at hk
      rw [List.getElem?_append_right (by rw [List.length_replicate]; omega), List.length_replicate]
      exact ih hk
  | cell hrun h ih =>
    cases k with
    | zero => exact hk
    | succ k => exact ih hk

/-- R145: a run that starts in a pattern meets its last mark; one that starts at a cell passed would be a window of the input. -/
theorem ScansTo.not_zeroRun (h : ScansTo width pattern last ones v out) (hwidth : 0 < width)
    (hpat : EndsInMark width pattern) (hlast : IsMark last) (start : Nat) : ¬ZeroRun out start width := by
  induction h generalizing start with
  | nil last ones => exact fun ⟨hfits, _⟩ => by rw [List.length_nil] at hfits; omega
  | @window last ones rest out h ih =>
    by_cases hin : start < width
    · intro ⟨_, hcells⟩
      refine hpat.last_ne_zero last ones hlast ?_
      have hcell := hcells (width - 1 - start) (by omega)
      rwa [show start + (width - 1 - start) = width - 1 by omega,
        List.getElem?_append_left (by rw [hpat.length_eq]; omega)] at hcell
    · obtain ⟨d, rfl⟩ := Nat.exists_eq_add_of_le (Nat.le_of_not_lt hin)
      rw [show width + d = (pattern last ones).length + d by rw [hpat.length_eq], zeroRun_append]
      exact ih hlast.inv d
  | @cell last ones x rest out hrun h ih =>
    cases start with
    | zero =>
      have hwhole : ScansTo width pattern last ones (x :: rest) (x :: out) := .cell hrun h
      intro ⟨hfits, hcells⟩
      exact hrun ⟨hwhole.length_eq hpat ▸ hfits, fun t ht => hwhole.zero_of_zero hpat (hcells t ht)⟩
    | succ start =>
      rw [Nat.add_comm, ← List.singleton_append, ← List.length_singleton (a := x), zeroRun_append]
      exact ih (hlast.polarityPast x) start

end Scan

theorem b8zs_not_zeroRun (v : List Trit) (start : Nat) : ¬ZeroRun (b8zs v) start 8 := by
  obtain ⟨out, h⟩ := exists_scansTo (width := 8) (by decide) b8zsPattern .plus 0 v
  exact h.b8zs_eq ▸ h.not_zeroRun (by decide) endsInMark_b8zsPattern (.inl rfl) start

theorem hdb3_not_zeroRun (v : List Trit) (start : Nat) : ¬ZeroRun (hdb3 v) start 4 := by
  obtain ⟨out, h⟩ := exists_scansTo (width := 4) (by decide) hdb3Pattern .plus 0 v
  exact h.hdb3_eq ▸ h.not_zeroRun (by decide) endsInMark_hdb3Pattern (.inl rfl) start

/-- A window of a sequence VOLT holds that is no run of zeros has a cell that is not 0. -/
theorem HoldsVolts.exists_ne_zero {s : State} {v : List Trit} {start width : Nat} (h : HoldsVolts s v)
    (hfits : start + width ≤ s.voltLen) (hrun : ¬ZeroRun v start width) :
    ∃ j, j < width ∧ readCell s.mem.volt (start + j) ≠ some .zero := by
  obtain ⟨hlen, hcells⟩ := h
  by_contra hall
  refine hrun ⟨hlen ▸ hfits, fun t ht => ?_⟩
  rw [← hcells _ (by omega)]
  by_contra hne
  exact hall ⟨t, ht, hne⟩

/-- Settles O23: VOLT holds the output of the scan, which leaves no such run. -/
theorem noLongZeroRunSurvives : Obligations.NoLongZeroRunSurvives := by
  rintro i kind window s t (⟨rfl, rfl, rfl⟩ | ⟨rfl, rfl, rfl⟩) ht hok start hfits
  · obtain ⟨v, hv⟩ := scrambles_scrB8zs.holdsVolts_of_exec_ok b8zs_length ht hok
    exact hv.exists_ne_zero hfits (b8zs_not_zeroRun v start)
  · obtain ⟨v, hv⟩ := scrambles_scrHdb3.holdsVolts_of_exec_ok hdb3_length ht hok
    exact hv.exists_ne_zero hfits (hdb3_not_zeroRun v start)

/-! ### The parity of ones_count -/

theorem hdb3Substitute_mod_two (v : List Trit) (i ones : Nat) (last : Trit) :
    hdb3Substitute v i (ones % 2) last = hdb3Substitute v i ones last := by
  rw [hdb3Substitute, hdb3Substitute, Nat.mod_mod]

theorem onesAfter_mod_two (v : List Trit) (i ones : Nat) :
    onesAfter v i (ones % 2) % 2 = onesAfter v i ones % 2 := by
  unfold onesAfter
  split <;> omega

/-- Settles O25: a substitution reads only the parity and reseeds the count; a cell passed changes the parity alike. -/
theorem hdb3DependsOnParity : Obligations.Hdb3DependsOnParity := by
  classical
  intro fuel
  induction fuel with
  | zero => intros; rfl
  | succ fuel ih =>
    intro i ones last v
    rw [hdb3Scan_succ, hdb3Scan_succ, hdb3Substitute_mod_two, ih (i + 1) (onesAfter v i ones),
      ih (i + 1) (onesAfter v i (ones % 2)), onesAfter_mod_two]

end Sys2Proof.Machine
end

section
/-! PROOFS. Where the voltage sequence comes from (R148, R220). VKIND, VOLT_LEN and VOLT change together: every step keeps all
three, or leaves another kind than AMI, or is the completion of ENC.AMI, which leaves the encoding of the bits it read. -/

namespace Sys2Proof.Machine

/-! ### When the provenance of VOLT is kept -/

/-- Another kind than AMI makes no claim about VOLT. -/
theorem AmiDerived.of_kind_ne {s : State} (h : s.vkind ≠ .ami) : AmiDerived s := fun hk => (h hk).elim

/-- From `s` to `t` the voltage sequence and its kind stay, or the kind becomes HOST (R28, R58). -/
def KeepsVoltsOrHost (s t : State) : Prop :=
  (t.vkind = s.vkind ∧ t.voltLen = s.voltLen ∧ t.mem.volt = s.mem.volt) ∨ t.vkind = .host

theorem KeepsVoltsOrHost.amiDerived {s t : State} (h : KeepsVoltsOrHost s t) (hs : AmiDerived s) : AmiDerived t := by
  obtain ⟨hkind, hlen, hvolt⟩ | hhost := h
  · simpa only [AmiDerived, HoldsVolts, hkind, hlen, hvolt] using hs
  · exact .of_kind_ne (by rw [hhost]; decide)

/-! ### The host's writes -/

theorem writeReg_keepsVoltsOrHost {r : Reg} {d : Word} {s t : State} (h : writeReg r d s = some t) :
    KeepsVoltsOrHost s t := by
  obtain rfl | ⟨-, rfl⟩ | ⟨-, rfl⟩ | ⟨-, rfl⟩ := writeReg_eq_some h
  · exact .inl ⟨rfl, rfl, rfl⟩
  · exact .inl ⟨rfl, rfl, rfl⟩
  · exact .inl ⟨rfl, rfl, rfl⟩
  · exact .inr rfl

theorem writeTarget_keepsVoltsOrHost {tgt : Target} {d : Word} {s t : State} (h : writeTarget tgt d s = some t) :
    KeepsVoltsOrHost s t := by
  cases tgt with
  | reg r => exact writeReg_keepsVoltsOrHost h
  | sym k => cases h; exact .inl ⟨rfl, rfl, rfl⟩
  | volt k => exact .inr ((writeTarget_vkind h).1 trivial)
  | samp k => cases h; exact .inl ⟨rfl, rfl, rfl⟩

theorem transact_keepsVoltsOrHost {tx : Transaction} {r : Reply} {s t : State} (h : transact tx s = .ok (r, t)) :
    KeepsVoltsOrHost s t := by
  obtain ⟨a, -, -, rfl⟩ | ⟨a, d, -, -, rfl⟩ := transact_eq_ok h
  · exact .inl ⟨rfl, rfl, rfl⟩
  · obtain hw | ⟨tgt, t, -, -, ht, hw⟩ := busWrite_cases a d s <;> rw [hw]
    · exact .inl ⟨rfl, rfl, rfl⟩
    · exact writeTarget_keepsVoltsOrHost ht

/-! ### The commands -/

/-- Of the encodes only the one that leaves AMI has to emit AMI, and it does so from a non-empty string (R120, R125). -/
theorem Encodes.amiDerived {i : Instr} {kind : VKind} {emit : List Bool → List Trit} {s u : State}
    (h : Encodes i kind emit) (hkind : kind = .ami → emit = emitAmi .plus) (hu : commandEffect i s = .ok u) :
    AmiDerived u := by
  obtain ⟨bits, hbits, rfl⟩ := encodeEffect_eq_ok ((h s).symm.trans hu)
  obtain ⟨hne, -, -⟩ := bitStringOperand_eq_ok.1 hbits
  intro hami
  obtain rfl := hkind hami
  exact ⟨bits, hne, rfl, fun k hk => by rw [storeVoltages_mem, readCell_writeCells_zero, if_pos hk]⟩

theorem Scrambles.amiDerived {i : Instr} {kind : VKind} {scan : List Trit → List Trit} {s u : State}
    (h : Scrambles i kind scan) (hkind : kind ≠ .ami) (hu : commandEffect i s = .ok u) : AmiDerived u := by
  obtain ⟨-, v, -, rfl⟩ := scrambleEffect_eq_ok ((h s).symm.trans hu)
  exact .of_kind_ne hkind

theorem commandEffect_keeps_amiDerived {i : Instr} {s u : State} (h : AmiDerived s) (hu : commandEffect i s = .ok u) :
    AmiDerived u := by
  cases i with
  | quantPcm depth => obtain ⟨-, xs, -, rfl⟩ := quantPcmEffect_eq_ok hu; exact h
  | quantDm => obtain ⟨xs, -, rfl⟩ := quantDmEffect_eq_ok hu; exact h
  | encNrzl => exact encodes_encNrzl.amiDerived nofun hu
  | encNrzi => exact encodes_encNrzi.amiDerived nofun hu
  | encMan => exact encodes_encMan.amiDerived nofun hu
  | encDman => exact encodes_encDman.amiDerived nofun hu
  | encAmi => exact encodes_encAmi.amiDerived (fun _ => rfl) hu
  | scrB8zs => exact scrambles_scrB8zs.amiDerived nofun hu
  | scrHdb3 => exact scrambles_scrHdb3.amiDerived nofun hu
  | anaPal => obtain ⟨bits, -, rfl⟩ := anaPalEffect_eq_ok hu; exact h
  | anaZrun => obtain ⟨v, -, rfl⟩ := anaZrunEffect_eq_ok hu; exact h

/-! ### The turns -/

theorem engineStep_keeps_amiDerived {s t : State} (h : AmiDerived s) (ht : engineStep s = .next t) : AmiDerived t := by
  obtain ⟨e, -, rfl⟩ | ⟨i, -, hi⟩ := engineStep_eq_next ht
  · exact h
  · obtain ⟨u, hu, rfl⟩ | ⟨e, rfl⟩ := exec_eq_next hi
    · have hkept : AmiDerived u := commandEffect_keeps_amiDerived h hu
      exact hkept
    · exact h

theorem envStep_keeps_amiDerived {s t : State} (h : AmiDerived s) (ht : envStep s = .next t) : AmiDerived t := by
  obtain ⟨-, rfl⟩ | ⟨tx, rest, r, s', -, htx, rfl⟩ | ⟨rest, r, -, -, rfl⟩ | ⟨during, rest, -, rfl⟩ :=
    envStep_eq_next ht
  · exact h
  · exact (transact_keepsVoltsOrHost htx).amiDerived h
  · exact h
  · obtain ⟨o, d, hreset⟩ := observeDuringReset_eq during { resetBlock s with env := rest }
    rw [resetTurn, hreset]
    exact .of_kind_ne nofun

/-- Settles O57: of all turns only the completion of ENC.AMI makes VKIND AMI, and no other that keeps it touches VOLT. -/
theorem everyStepKeepsProvenance : Obligations.EveryStepKeepsProvenance := by
  intro s t h ht
  obtain ⟨-, -, hs⟩ | ⟨-, -, hs⟩ | ⟨-, -, hs⟩ := step_eq s <;> rw [hs] at ht
  · exact engineStep_keeps_amiDerived (s := takeTurn s) h ht
  · exact envStep_keeps_amiDerived (s := takeTurn s) h ht
  · exact envStep_keeps_amiDerived h ht

/-- Settles O56: the kind at reset is NONE (R39). -/
theorem provenanceHoldsAtReset : Obligations.ProvenanceHoldsAtReset := fun _ => .of_kind_ne nofun

end Sys2Proof.Machine
end

section
/-! PROOFS. The analyzer (43_analyzer.md). Every result is the longest pair (start, length) with a property, leftmost among
equals, which is one pair only. ANA.PAL searches for it; ANA.ZRUN's pass and the loop of R162 keep it for the cells and for the
centres passed so far, by the same strict comparison. -/

namespace Sys2Proof.Machine

open Sys2Proof.Statements

/-! ### Longest, and leftmost among equals -/

/-- `r` is (start, length) of the longest `P`, leftmost among equals (R160, R161). -/
structure LeftmostLongest (P : Nat → Nat → Prop) (r : Nat × Nat) : Prop where
  holds : P r.1 r.2
  longest : ∀ i l, P i l → l ≤ r.2
  leftmost : ∀ i, P i r.2 → r.1 ≤ i

theorem LeftmostLongest.unique {P : Nat → Nat → Prop} {r₁ r₂ : Nat × Nat} (h₁ : LeftmostLongest P r₁)
    (h₂ : LeftmostLongest P r₂) : r₁ = r₂ := by
  have hlen : r₁.2 = r₂.2 := Nat.le_antisymm (h₂.longest _ _ h₁.holds) (h₁.longest _ _ h₂.holds)
  have hstart : r₁.1 = r₂.1 := Nat.le_antisymm (h₁.leftmost _ (hlen ▸ h₂.holds)) (h₂.leftmost _ (hlen ▸ h₁.holds))
  exact Prod.ext hstart hlen

/-- The strict comparison with the best so far (R161, R162): where `P` grows to `Q` by pairs that are no longer than `cand`, and
none of them further left than `cand` or `best` at its length. -/
theorem LeftmostLongest.compare {P Q : Nat → Nat → Prop} {best cand : Nat × Nat} (h : LeftmostLongest P best)
    (hgrow : ∀ i l, P i l → Q i l) (hcand : Q cand.1 cand.2)
    (hnew : ∀ i l, Q i l → P i l ∨ l ≤ cand.2 ∧ (l = cand.2 → cand.1 ≤ i) ∧ (l = best.2 → best.1 ≤ i)) :
    LeftmostLongest Q (if best.2 < cand.2 then cand else best) := by
  split
  · rename_i hlt
    refine ⟨hcand, fun i l hq => ?_, fun i hq => ?_⟩
    · obtain hp | ⟨hle, -, -⟩ := hnew i l hq
      · exact (h.longest i l hp).trans hlt.le
      · exact hle
    · obtain hp | ⟨-, hleft, -⟩ := hnew i _ hq
      · exact absurd (h.longest i _ hp) hlt.not_ge
      · exact hleft rfl
  · rename_i hlt
    refine ⟨hgrow _ _ h.holds, fun i l hq => ?_, fun i hq => ?_⟩
    · obtain hp | ⟨hle, -, -⟩ := hnew i l hq
      · exact h.longest i l hp
      · exact hle.trans (Nat.le_of_not_lt hlt)
    · obtain hp | ⟨-, -, hleft⟩ := hnew i _ hq
      · exact h.leftmost i hp
      · exact hleft rfl

/-- Where the longest is empty, the result is (0, 0). -/
theorem LeftmostLongest.eq_zero {P : Nat → Nat → Prop} {r : Nat × Nat} (h : LeftmostLongest P r) (hzero : P 0 0)
    (hlen : r.2 = 0) : r = (0, 0) :=
  Prod.ext (Nat.le_zero.1 (h.leftmost 0 (hlen ▸ hzero))) hlen

/-! ### The search of ANA.PAL -/

theorem palindrome_zero (bits : List Bool) : Palindrome bits 0 0 := ⟨Nat.zero_le _, nofun⟩

/-- Any one symbol is a palindrome (R160). -/
theorem palindrome_one {bits : List Bool} (hne : bits ≠ []) : Palindrome bits 0 1 :=
  ⟨by simpa [Nat.succ_le_iff, List.length_pos_iff] using hne, fun t ht => by rw [Nat.lt_one_iff.1 ht]⟩

theorem palindrome_iff_isPal {bits : List Bool} {i len : Nat} :
    Palindrome bits i len ↔ i + len ≤ bits.length ∧ isPal bits i len = true := by
  simp only [Palindrome, isPal, List.all_eq_true, List.mem_range, decide_eq_true_eq]
  refine and_congr_right fun _ => forall₂_congr fun t ht => ?_
  rw [show i + len - 1 - t = i + (len - 1 - t) by omega]

theorem leftmostPal_eq_some {bits : List Bool} {len i : Nat} (h : leftmostPal bits len = some i) :
    Palindrome bits i len ∧ ∀ j, Palindrome bits j len → i ≤ j := by
  obtain ⟨hpal, hi, hfirst⟩ := List.find?_range_eq_some.1 h
  rw [List.mem_range] at hi
  refine ⟨palindrome_iff_isPal.2 ⟨by omega, hpal⟩, fun j hj => ?_⟩
  by_contra hlt
  have hno := hfirst j (by omega)
  rw [(palindrome_iff_isPal.1 hj).2] at hno
  exact absurd hno (by decide)

theorem leftmostPal_eq_none {bits : List Bool} {len : Nat} (h : leftmostPal bits len = none) (i : Nat) :
    ¬Palindrome bits i len := by
  intro hi
  obtain ⟨hfits, hpal⟩ := palindrome_iff_isPal.1 hi
  exact List.find?_eq_none.1 h i (List.mem_range.2 (by omega)) hpal

theorem longestPalUpTo_leftmostLongest {bits : List Bool} {len : Nat} (hbound : ∀ i l, Palindrome bits i l → l ≤ len) :
    LeftmostLongest (Palindrome bits) (longestPalUpTo bits len) := by
  induction len with
  | zero => exact ⟨palindrome_zero bits, hbound, fun _ _ => Nat.zero_le _⟩
  | succ len ih =>
    unfold longestPalUpTo
    split
    · rename_i i hi
      obtain ⟨hpal, hleft⟩ := leftmostPal_eq_some hi
      exact ⟨hpal, hbound, hleft⟩
    · rename_i hnone
      refine ih fun i l hl => ?_
      have hne : l ≠ len + 1 := fun h => leftmostPal_eq_none hnone i (h ▸ hl)
      have hle := hbound i l hl
      omega

/-- R160: ANA.PAL's search finds the longest palindrome, leftmost among equals. -/
theorem longestPal_leftmostLongest (bits : List Bool) : LeftmostLongest (Palindrome bits) (longestPal bits) :=
  longestPalUpTo_leftmostLongest fun i l h => by
    obtain ⟨hfits, -⟩ := h
    omega

/-! ### ANA.PAL -/

theorem anaPal_exec_of_bits {s : State} {bits : List Bool} (hread : bitStringOperand s = .ok bits) :
    exec .anaPal s = .next (succeeded (storePalindrome (longestPal bits) s)) :=
  exec_of_effect_ok (by rw [commandEffect, anaPalEffect, hread])

theorem anaPal_exec_of_cmdError {s : State} {e : CmdError} (hread : bitStringOperand s = .error (.cmdError e)) :
    exec .anaPal s = .next (failed e.code s) :=
  exec_of_effect_cmdError (by rw [commandEffect, anaPalEffect, hread])

/-- R163: ANA.PAL refuses the bit strings an encode refuses. -/
theorem anaPal_rejectsBadStrings : RejectsBadStrings .anaPal :=
  ⟨fun _ hlen => anaPal_exec_of_cmdError (bitStringOperand_empty hlen),
    fun _ _ _ hk hsym hc hzero hone => anaPal_exec_of_cmdError (bitStringOperand_badSymbol hk hsym hc hzero hone)⟩

/-- Settles O27: the result stored is that of the search, and one symbol is a palindrome already. -/
theorem palindromeIsLongestAndLeftmost : Obligations.PalindromeIsLongestAndLeftmost := by
  refine ⟨decodeOfEncode .anaPal rfl, anaPal_rejectsBadStrings, fun s bits hne hs => ?_⟩
  obtain ⟨hpal, hlongest, hleftmost⟩ := longestPal_leftmostLongest bits
  exact ⟨_, _, anaPal_exec_of_bits (hs.bitStringOperand_eq hne), hlongest 0 1 (palindrome_one hne), hpal, hlongest, hleftmost⟩

/-! ### The runs of zeros of a growing sequence -/

theorem zeroRun_nil (i : Nat) (l : Nat) : ZeroRun [] i l ↔ i = 0 ∧ l = 0 := by
  constructor
  · rintro ⟨hfits, -⟩
    simpa using hfits
  · rintro ⟨rfl, rfl⟩
    exact ⟨Nat.le_refl 0, nofun⟩

theorem zeroRun_empty {v : List Trit} {i : Nat} (hi : i ≤ v.length) : ZeroRun v i 0 := ⟨hi, nofun⟩

/-- A run that ends before the new cell is a run of the sequence without it. -/
theorem zeroRun_snoc_of_le {pre : List Trit} {x : Trit} {i l : Nat} (hfits : i + l ≤ pre.length) :
    ZeroRun (pre ++ [x]) i l ↔ ZeroRun pre i l := by
  have hcell (t : Nat) (ht : t < l) : (pre ++ [x])[i + t]? = pre[i + t]? := List.getElem?_append_left (by omega)
  constructor
  · rintro ⟨-, hcells⟩
    exact ⟨hfits, fun t ht => hcell t ht ▸ hcells t ht⟩
  · rintro ⟨-, hcells⟩
    exact ⟨by simp; omega, fun t ht => (hcell t ht).trans (hcells t ht)⟩

/-- A run that ends with the new cell is a run that ends before it, and that cell. -/
theorem zeroRun_snoc_last {pre : List Trit} {x : Trit} {i l : Nat} (hend : i + l = pre.length) :
    ZeroRun (pre ++ [x]) i (l + 1) ↔ ZeroRun pre i l ∧ x = .zero := by
  constructor
  · rintro ⟨-, hcells⟩
    have hlast := hcells l (by omega)
    rw [hend, List.getElem?_concat_length] at hlast
    exact ⟨(zeroRun_snoc_of_le hend.le).1 ⟨by simp; omega, fun t ht => hcells t (by omega)⟩, Option.some.inj hlast⟩
  · rintro ⟨hrun, rfl⟩
    obtain ⟨-, hcells⟩ := (zeroRun_snoc_of_le hend.le).2 hrun
    refine ⟨by simp; omega, fun t ht => ?_⟩
    obtain hlt | rfl := Nat.lt_succ_iff_lt_or_eq.1 ht
    · exact hcells t hlt
    · rw [hend, List.getElem?_concat_length]

theorem zeroRun_snoc_cases {pre : List Trit} {x : Trit} {i l : Nat} (h : ZeroRun (pre ++ [x]) i l) :
    ZeroRun pre i l ∨ i + l = pre.length + 1 := by
  have hfits : i + l ≤ pre.length + 1 := by simpa using h.1
  obtain hle | heq := Nat.le_succ_iff.1 hfits
  · exact .inl ((zeroRun_snoc_of_le hle).1 h)
  · exact .inr heq

theorem zeroRun_snoc {pre : List Trit} {i l : Nat} (x : Trit) (h : ZeroRun pre i l) : ZeroRun (pre ++ [x]) i l :=
  (zeroRun_snoc_of_le h.1).2 h

/-- The run of `len` zeros from `start` is the longest at the sequence's end. -/
structure EndRun (v : List Trit) (start len : Nat) : Prop where
  at_end : start + len = v.length
  run : ZeroRun v start len
  longest : ∀ i l, i + l = v.length → ZeroRun v i l → l ≤ len

theorem EndRun.zero {pre : List Trit} {start len : Nat} (h : EndRun pre start len) :
    EndRun (pre ++ [Trit.zero]) start (len + 1) := by
  obtain ⟨hend, hrun, hlongest⟩ := h
  refine ⟨by simp; omega, (zeroRun_snoc_last hend).2 ⟨hrun, rfl⟩, fun i l hil hl => ?_⟩
  rw [List.length_append, List.length_singleton] at hil
  cases l with
  | zero => exact Nat.zero_le _
  | succ l =>
    have hshort : i + l = pre.length := by omega
    exact Nat.succ_le_succ (hlongest i l hshort ((zeroRun_snoc_last hshort).1 hl).1)

theorem EndRun.mark {pre : List Trit} {x : Trit} (hx : x ≠ .zero) : EndRun (pre ++ [x]) (pre.length + 1) 0 := by
  refine ⟨by simp, zeroRun_empty (by simp), fun i l hil hl => ?_⟩
  rw [List.length_append, List.length_singleton] at hil
  cases l with
  | zero => exact Nat.le_refl 0
  | succ l => exact absurd ((zeroRun_snoc_last (by omega)).1 hl).2 hx

/-- The best run so far, compared with the one at the end. -/
theorem LeftmostLongest.compare_endRun {pre : List Trit} {x : Trit} {best cand : Nat × Nat}
    (h : LeftmostLongest (ZeroRun pre) best) (hcand : EndRun (pre ++ [x]) cand.1 cand.2) :
    LeftmostLongest (ZeroRun (pre ++ [x])) (if best.2 < cand.2 then cand else best) := by
  obtain ⟨hend, hrun, hlongest⟩ := hcand
  refine h.compare (fun i l => zeroRun_snoc x) hrun fun i l hl => ?_
  refine (zeroRun_snoc_cases hl).imp_right fun hil => ?_
  have hbest : best.1 + best.2 ≤ pre.length := h.holds.1
  have hlen : (pre ++ [x]).length = pre.length + 1 := by simp
  exact ⟨hlongest i l (by omega) hl, by omega, by omega⟩

/-! ### The pass of ANA.ZRUN -/

/-- (start, length) of the best run once the current one is compared with it. -/
def ZeroScan.result (z : ZeroScan) : Nat × Nat := ((compareRun z).bestStart, (compareRun z).best)

theorem ZeroScan.result_eq (z : ZeroScan) :
    z.result = if z.best < z.cur then (z.curStart, z.cur) else (z.bestStart, z.best) := by
  unfold ZeroScan.result compareRun
  split <;> rfl

/-- Where the current run starts, or would start with a zero at cell `k`. -/
def ZeroScan.runStart (z : ZeroScan) (k : Nat) : Nat := if z.cur = 0 then k else z.curStart

/-- The working state after a zero at cell `k` (R161). -/
def ZeroScan.afterZero (z : ZeroScan) (k : Nat) : ZeroScan := { z with cur := z.cur + 1, curStart := z.runStart k }

/-- The working state after a mark (R161). -/
def ZeroScan.afterMark (z : ZeroScan) : ZeroScan := { compareRun z with cur := 0 }

theorem zeroScan_cons (k : Nat) (x : Trit) (v : List Trit) (z : ZeroScan) :
    zeroScan k (x :: v) z = zeroScan (k + 1) v (if x = .zero then z.afterZero k else z.afterMark) := by
  cases x <;> rfl

theorem ZeroScan.result_afterZero (z : ZeroScan) (k : Nat) :
    (z.afterZero k).result =
      if z.result.2 < z.cur + 1 then (z.runStart k, z.cur + 1) else z.result := by
  rw [(z.afterZero k).result_eq, z.result_eq]
  by_cases h : z.best < z.cur
  · rw [if_pos h, if_pos (Nat.lt_succ_self _)]
    exact if_pos (Nat.lt_succ_of_lt h)
  · rw [if_neg h]
    rfl

theorem ZeroScan.result_afterMark (z : ZeroScan) : z.afterMark.result = z.result :=
  z.afterMark.result_eq.trans (if_neg (Nat.not_lt_zero _))

/-- The pass has read `pre`: it knows the run at its end, and the best run in it. -/
structure ZeroScan.Tracks (pre : List Trit) (z : ZeroScan) : Prop where
  current : EndRun pre (z.runStart pre.length) z.cur
  best : LeftmostLongest (ZeroRun pre) z.result

theorem ZeroScan.Tracks.zero {pre : List Trit} {z : ZeroScan} (h : z.Tracks pre) :
    (z.afterZero pre.length).Tracks (pre ++ [Trit.zero]) := by
  have hcurrent := h.current.zero
  refine ⟨hcurrent, ?_⟩
  rw [ZeroScan.result_afterZero]
  exact h.best.compare_endRun (cand := (z.runStart pre.length, z.cur + 1)) hcurrent

theorem ZeroScan.Tracks.mark {pre : List Trit} {z : ZeroScan} {x : Trit} (h : z.Tracks pre) (hx : x ≠ .zero) :
    z.afterMark.Tracks (pre ++ [x]) := by
  have hcurrent : EndRun (pre ++ [x]) (pre.length + 1) 0 := .mark hx
  refine ⟨?_, ?_⟩
  · rw [List.length_append]
    exact hcurrent
  · rw [ZeroScan.result_afterMark]
    exact h.best.compare_endRun (cand := (pre.length + 1, 0)) hcurrent

theorem ZeroScan.Tracks.scan {pre : List Trit} {z : ZeroScan} (v : List Trit) (h : z.Tracks pre) :
    (zeroScan pre.length v z).Tracks (pre ++ v) := by
  induction v generalizing pre z with
  | nil => rwa [List.append_nil]
  | cons x v ih =>
    have hstep : (if x = .zero then z.afterZero pre.length else z.afterMark).Tracks (pre ++ [x]) := by
      split
      · rename_i hx
        exact hx ▸ h.zero
      · rename_i hx
        exact h.mark hx
    rw [zeroScan_cons]
    simpa using ih hstep

theorem ZeroScan.tracks_start : ZeroScan.Tracks [] { best := 0, bestStart := 0, cur := 0, curStart := 0 } where
  current := ⟨rfl, zeroRun_empty (Nat.le_refl 0), fun i l h _ => by simp at h; omega⟩
  best := ⟨zeroRun_empty (Nat.le_refl 0), fun i l h => ((zeroRun_nil i l).1 h).2.le, fun _ _ => Nat.zero_le _⟩

/-- R161: the pass finds the longest run of zeros, leftmost among equals. -/
theorem longestZeroRun_leftmostLongest (v : List Trit) : LeftmostLongest (ZeroRun v) (longestZeroRun v) := by
  have hbest := (ZeroScan.tracks_start.scan v).best
  unfold longestZeroRun
  dsimp only
  split
  · exact hbest
  · rename_i hzero
    exact hbest.eq_zero (zeroRun_empty (Nat.zero_le _)) (Nat.le_zero.1 (Nat.le_of_not_lt hzero)) ▸ hbest

/-! ### ANA.ZRUN -/

theorem HoldsVolts.voltageOperand_eq {s : State} {v : List Trit} (h : HoldsVolts s v) : voltageOperand s = .ok v := by
  obtain ⟨hlen, hcells⟩ := h
  exact voltageOperand_eq_ok.2 ⟨hlen, fun k hk => hcells k (hlen ▸ hk)⟩

theorem anaZrun_exec_of_volts {s : State} {v : List Trit} (hread : voltageOperand s = .ok v) :
    exec .anaZrun s = .next (succeeded (storeZeroRun (longestZeroRun v) s)) :=
  exec_of_effect_ok (by rw [commandEffect, anaZrunEffect, hread])

/-- Settles O28: the result stored is that of the pass. -/
theorem zeroRunIsLongestAndLeftmost : Obligations.ZeroRunIsLongestAndLeftmost := by
  refine ⟨decodeOfEncode .anaZrun rfl, fun s v hs => ?_⟩
  have hbest := longestZeroRun_leftmostLongest v
  have hempty : ZeroRun v 0 0 := zeroRun_empty (Nat.zero_le _)
  exact ⟨_, _, anaZrun_exec_of_volts hs.voltageOperand_eq, hbest.holds, hbest.longest, fun i _ => hbest.leftmost i,
    fun hlen => congrArg Prod.fst (hbest.eq_zero hempty hlen)⟩

/-! ### The padded string of R162 -/

/-- The padded string after its left guard. -/
def interleaved (bits : List Bool) : List PadSym :=
  (bits.flatMap fun b => [PadSym.sep, PadSym.bit b]) ++ [PadSym.sep, PadSym.right]

theorem padded_eq (bits : List Bool) : padded bits = .left :: interleaved bits := rfl

theorem interleaved_sep {bits : List Bool} {k : Nat} (hk : k ≤ bits.length) : (interleaved bits)[2 * k]? = some .sep := by
  induction bits generalizing k with
  | nil => rw [Nat.le_zero.1 hk]; rfl
  | cons b bits ih =>
    cases k with
    | zero => rfl
    | succ k => exact ih (Nat.le_of_succ_le_succ hk)

theorem interleaved_bit {bits : List Bool} {k : Nat} (hk : k < bits.length) :
    (interleaved bits)[2 * k + 1]? = (bits[k]?).map .bit := by
  induction bits generalizing k with
  | nil => exact absurd hk (Nat.not_lt_zero k)
  | cons b bits ih =>
    cases k with
    | zero => rfl
    | succ k => exact ih (Nat.lt_of_succ_lt_succ hk)

theorem padded_sep {bits : List Bool} {k : Nat} (hk : k ≤ bits.length) : (padded bits)[2 * k + 1]? = some .sep :=
  interleaved_sep hk

theorem padded_bit {bits : List Bool} {k : Nat} (hk : k < bits.length) :
    (padded bits)[2 * k + 2]? = (bits[k]?).map .bit := interleaved_bit hk

theorem padded_length (bits : List Bool) : (padded bits).length = 2 * bits.length + 3 := by
  rw [padded_eq]
  simp [interleaved, Nat.mul_comm]

/-- The left guard stands at 0 alone. -/
theorem padded_ne_left {bits : List Bool} {k : Nat} (hk : 0 < k) : (padded bits)[k]? ≠ some .left := by
  intro h
  obtain ⟨k, rfl⟩ := Nat.exists_eq_succ_of_ne_zero hk.ne'
  have hmem : PadSym.left ∈ interleaved bits := List.mem_of_getElem? h
  simp [interleaved] at hmem

/-- The padded string before its right guard. -/
def paddedFront (bits : List Bool) : List PadSym :=
  PadSym.left :: (bits.flatMap fun b => [PadSym.sep, PadSym.bit b]) ++ [PadSym.sep]

theorem padded_eq_front (bits : List Bool) : padded bits = paddedFront bits ++ [PadSym.right] := by
  simp [padded, paddedFront]

theorem paddedFront_length (bits : List Bool) : (paddedFront bits).length = 2 * bits.length + 2 := by
  simp [paddedFront, Nat.mul_comm]

/-- The right guard stands at the end alone. -/
theorem padded_right_iff {bits : List Bool} {k : Nat} (hk : k ≤ 2 * bits.length + 2) :
    (padded bits)[k]? = some .right ↔ k = 2 * bits.length + 2 := by
  rw [← paddedFront_length] at hk ⊢
  rw [padded_eq_front]
  constructor
  · intro h
    by_contra hne
    rw [List.getElem?_append_left (by omega)] at h
    have hmem : PadSym.right ∈ paddedFront bits := List.mem_of_getElem? h
    simp [paddedFront] at hmem
  · rintro rfl
    exact List.getElem?_concat_length

/-! ### Mirrors -/

/-- Positions opposite each other about the centre `c`, as far as `r` from it, hold the same. -/
structure Mirrored (t : List PadSym) (c r : Nat) : Prop where
  le : r ≤ c
  eq : ∀ a b, a + b = 2 * c → a ≤ c + r → b ≤ c + r → t[a]? = t[b]?

theorem mirrored_zero (t : List PadSym) (c : Nat) : Mirrored t c 0 :=
  ⟨Nat.zero_le c, fun a b hab ha hb => by rw [show a = b by omega]⟩

theorem Mirrored.mono {t : List PadSym} {c r d : Nat} (h : Mirrored t c r) (hd : d ≤ r) : Mirrored t c d :=
  ⟨hd.trans h.le, fun a b hab ha hb => h.eq a b hab (by omega) (by omega)⟩

/-- The loop's test at radius `r` is what the next radius adds. -/
theorem Mirrored.succ_iff {t : List PadSym} {c r : Nat} (h : Mirrored t c r) (hr : r < c) :
    Mirrored t c (r + 1) ↔ t[c + 1 + r]? = t[c - 1 - r]? := by
  constructor
  · intro hnext
    exact hnext.eq _ _ (by omega) (by omega) (by omega)
  · intro htest
    refine ⟨hr, fun a b hab ha hb => ?_⟩
    by_cases hright : a = c + 1 + r
    · rw [hright, htest, show b = c - 1 - r by omega]
    · by_cases hleft : b = c + 1 + r
      · rw [hleft, htest, show a = c - 1 - r by omega]
      · exact h.eq a b hab (by omega) (by omega)

/-- What lies under a larger mirror about `center` is mirrored about `c` as it is about the opposite centre (R162). -/
theorem Mirrored.reflect {t : List PadSym} {center radius c r : Nat} (h : Mirrored t center radius)
    (hopp : Mirrored t (2 * center - c) r) (hc : center < c) (hr : c + r ≤ center + radius) : Mirrored t c r := by
  have hle := h.le
  refine ⟨by omega, fun a b hab ha hb => ?_⟩
  calc t[a]? = t[2 * center - a]? := h.eq _ _ (by omega) (by omega) (by omega)
    _ = t[2 * center - b]? := hopp.eq _ _ (by omega) (by omega) (by omega)
    _ = t[b]? := h.eq _ _ (by omega) (by omega) (by omega)

/-- `r` is the largest radius at `c`. -/
def IsRadius (t : List PadSym) (c r : Nat) : Prop := ∀ d, Mirrored t c d ↔ d ≤ r

theorem isRadius_of_not_succ {t : List PadSym} {c r : Nat} (h : Mirrored t c r) (hmax : ¬Mirrored t c (r + 1)) :
    IsRadius t c r := by
  refine fun d => ⟨fun hd => ?_, h.mono⟩
  by_contra hlt
  exact hmax (hd.mono (by omega))

/-- No mirror about `c` reaches position 0, so the loop of R162 ends at `c`. -/
def Guarded (t : List PadSym) (c : Nat) : Prop := ∀ r, Mirrored t c r → r < c

/-- The loop comes to the largest radius from every radius to start from, given fuel for `c` turns. -/
theorem expandRadius_isRadius {t : List PadSym} {c fuel r : Nat} (hguard : Guarded t c) (h : Mirrored t c r)
    (hfuel : c ≤ fuel + r) : IsRadius t c (expandRadius t c fuel r) := by
  have hr := hguard r h
  induction fuel generalizing r with
  | zero => omega
  | succ fuel ih =>
    unfold expandRadius
    split
    · rename_i htest
      have hnext := (h.succ_iff hr).2 htest
      exact ih hnext (by omega) (hguard _ hnext)
    · rename_i htest
      exact isRadius_of_not_succ h (mt (h.succ_iff hr).1 htest)

/-! ### The loop of R162 -/

/-- The radius the loop starts from at `c` (R162). -/
def CenterScan.startRadius (m : CenterScan) (c : Nat) : Nat :=
  if c < m.rightEdge then min (m.rightEdge - c) (m.radii.getD (2 * m.center - c) 0) else 0

/-- The radius the loop comes to at `c` (R162). -/
def CenterScan.radius (t : List PadSym) (m : CenterScan) (c : Nat) : Nat := expandRadius t c t.length (m.startRadius c)

@[simp] theorem centerStep_radii (t : List PadSym) (m : CenterScan) (c : Nat) :
    (centerStep t m c).radii = m.radii ++ [m.radius t c] := rfl
@[simp] theorem centerStep_center (t : List PadSym) (m : CenterScan) (c : Nat) :
    (centerStep t m c).center = if c + m.radius t c > m.rightEdge then c else m.center := rfl
@[simp] theorem centerStep_rightEdge (t : List PadSym) (m : CenterScan) (c : Nat) :
    (centerStep t m c).rightEdge = if c + m.radius t c > m.rightEdge then c + m.radius t c else m.rightEdge := rfl
@[simp] theorem centerStep_best (t : List PadSym) (m : CenterScan) (c : Nat) :
    (centerStep t m c).best = if m.best < m.radius t c then m.radius t c else m.best := rfl
@[simp] theorem centerStep_bestCenter (t : List PadSym) (m : CenterScan) (c : Nat) :
    (centerStep t m c).bestCenter = if m.best < m.radius t c then c else m.bestCenter := rfl

/-- (centre, radius) of the best mirror so far. -/
def CenterScan.result (m : CenterScan) : Nat × Nat := (m.bestCenter, m.best)

theorem CenterScan.result_centerStep (t : List PadSym) (m : CenterScan) (c : Nat) :
    (centerStep t m c).result = if m.result.2 < m.radius t c then (c, m.radius t c) else m.result := by
  unfold result
  rw [centerStep_bestCenter, centerStep_best]
  split <;> rfl

/-- A mirror about one of the first `n` positions. -/
def MirroredBelow (t : List PadSym) (n c r : Nat) : Prop := c < n ∧ Mirrored t c r

/-- The loop has passed the centres below `n`: it knows their radii, a mirror up to its right edge, and the best one. -/
structure CenterScan.Tracks (t : List PadSym) (n : Nat) (m : CenterScan) : Prop where
  radii_length : m.radii.length = n
  isRadius : ∀ c, c < n → IsRadius t c (m.radii.getD c 0)
  edge : ∃ r, m.rightEdge = m.center + r ∧ MirroredBelow t n m.center r
  best : LeftmostLongest (MirroredBelow t n) m.result

theorem CenterScan.Tracks.mirrored_startRadius {t : List PadSym} {n : Nat} {m : CenterScan} (h : m.Tracks t n) :
    Mirrored t n (m.startRadius n) := by
  obtain ⟨radius, hedge, hcenter, hmirror⟩ := h.edge
  have hle := hmirror.le
  unfold CenterScan.startRadius
  split
  · have hopp := (h.isRadius (2 * m.center - n) (by omega) _).2 (min_le_right (m.rightEdge - n) _)
    exact hmirror.reflect hopp hcenter (by omega)
  · exact mirrored_zero t n

theorem CenterScan.Tracks.isRadius_radius {t : List PadSym} {n : Nat} {m : CenterScan} (h : m.Tracks t n)
    (hguard : Guarded t n) (hn : n ≤ t.length) : IsRadius t n (m.radius t n) :=
  expandRadius_isRadius hguard h.mirrored_startRadius (by omega)

theorem CenterScan.Tracks.step {t : List PadSym} {n : Nat} {m : CenterScan} (h : m.Tracks t n)
    (hguard : Guarded t n) (hn : n ≤ t.length) : (centerStep t m n).Tracks t (n + 1) := by
  have hradius := h.isRadius_radius hguard hn
  have hmirror : MirroredBelow t (n + 1) n (m.radius t n) := ⟨Nat.lt_succ_self n, (hradius _).2 (Nat.le_refl _)⟩
  have grow {c r : Nat} (hc : MirroredBelow t n c r) : MirroredBelow t (n + 1) c r := ⟨Nat.lt_succ_of_lt hc.1, hc.2⟩
  refine ⟨by simp [h.radii_length], fun c hc => ?_, ?_, ?_⟩
  · rw [centerStep_radii]
    obtain hlt | rfl := Nat.lt_succ_iff_lt_or_eq.1 hc
    · rw [List.getD_append _ _ _ _ (by rw [h.radii_length]; exact hlt)]
      exact h.isRadius c hlt
    · rw [List.getD_append_right _ _ _ _ h.radii_length.le, h.radii_length, Nat.sub_self]
      exact hradius
  · rw [centerStep_center, centerStep_rightEdge]
    split
    · exact ⟨_, rfl, hmirror⟩
    · obtain ⟨r, hedge, hcenter⟩ := h.edge
      exact ⟨r, hedge, grow hcenter⟩
  · rw [CenterScan.result_centerStep]
    refine h.best.compare (cand := (n, m.radius t n)) (fun c r => grow) hmirror fun c r ⟨hc, hr⟩ => ?_
    obtain hlt | rfl := Nat.lt_succ_iff_lt_or_eq.1 hc
    · exact .inl ⟨hlt, hr⟩
    · exact .inr ⟨(hradius r).1 hr, fun _ => Nat.le_refl _, fun _ => h.best.holds.1.le⟩

theorem CenterScan.Tracks.steps {t : List PadSym} {n : Nat} {m : CenterScan} (k : Nat) (h : m.Tracks t n)
    (hguard : ∀ c, n ≤ c → c < n + k → Guarded t c) (hk : n + k ≤ t.length) :
    ((List.range' n k).foldl (centerStep t) m).Tracks t (n + k) := by
  induction k generalizing n m with
  | zero => exact h
  | succ k ih =>
    have hstep := h.step (hguard n (Nat.le_refl n) (by omega)) (by omega)
    rw [List.range'_succ, List.foldl_cons, show n + (k + 1) = n + 1 + k by omega]
    exact ih hstep (fun c hlo hhi => hguard c (by omega) (by omega)) (by omega)

theorem isRadius_left_end (t : List PadSym) : IsRadius t 0 0 :=
  fun _ => ⟨Mirrored.le, (mirrored_zero t 0).mono⟩

theorem CenterScan.tracks_start (t : List PadSym) :
    CenterScan.Tracks t 1 { radii := [0], center := 0, rightEdge := 0, best := 0, bestCenter := 0 } where
  radii_length := rfl
  isRadius c hc := by
    obtain rfl := Nat.lt_one_iff.1 hc
    exact isRadius_left_end t
  edge := ⟨0, rfl, Nat.one_pos, mirrored_zero t 0⟩
  best := by
    refine ⟨⟨Nat.one_pos, mirrored_zero t 0⟩, fun c r ⟨hc, hr⟩ => ?_, fun _ _ => Nat.zero_le _⟩
    obtain rfl := Nat.lt_one_iff.1 hc
    exact hr.le

/-! ### Mirrors in the padded string are palindromes -/

/-- About a centre between the guards no mirror reaches them. -/
theorem Mirrored.inside {bits : List Bool} {c r : Nat} (h : Mirrored (padded bits) c r) (hlo : 0 < c)
    (hhi : c < 2 * bits.length + 2) : r < c ∧ c + r < 2 * bits.length + 2 := by
  have hle := h.le
  constructor
  · by_contra hr
    have hleft : (padded bits)[2 * c]? = (padded bits)[0]? := h.eq _ _ rfl (by omega) (by omega)
    exact padded_ne_left (by omega) hleft
  · by_contra hr
    have hright := h.eq (2 * bits.length + 2) (2 * c - (2 * bits.length + 2)) (by omega) (by omega) (by omega)
    rw [(padded_right_iff (Nat.le_refl _)).2 rfl, eq_comm, padded_right_iff (by omega)] at hright
    omega

theorem padded_guarded {bits : List Bool} {c : Nat} (hlo : 0 < c) (hhi : c < 2 * bits.length + 2) :
    Guarded (padded bits) c := fun _ h => (h.inside hlo hhi).1

/-- A mirror that ends with two bits goes on to the separators beside them. -/
theorem Mirrored.extend {bits : List Bool} {k r : Nat} (h : Mirrored (padded bits) (r + 2 * k) r) (hlo : 0 < r + 2 * k)
    (hhi : r + 2 * k < 2 * bits.length + 2) : Mirrored (padded bits) (r + 2 * k) (r + 1) := by
  obtain ⟨hr, hend⟩ := h.inside hlo hhi
  refine (h.succ_iff hr).2 ?_
  rw [show r + 2 * k + 1 + r = 2 * (k + r) + 1 by omega, show r + 2 * k - 1 - r = 2 * (k - 1) + 1 by omega,
    padded_sep (by omega), padded_sep (by omega)]

/-- The `l` symbols from `i` on lie about position 2i + l + 1 of the padded string (R162). -/
theorem palindrome_iff_mirrored {bits : List Bool} {i l : Nat} (hfits : i + l ≤ bits.length) :
    Palindrome bits i l ↔ Mirrored (padded bits) (2 * i + l + 1) l := by
  constructor
  · rintro ⟨-, hcells⟩
    refine ⟨by omega, fun a b hab ha hb => ?_⟩
    obtain ⟨x, rfl | rfl⟩ : ∃ x, a = 2 * x + 1 ∨ a = 2 * x + 2 := ⟨(a - 1) / 2, by omega⟩
    · obtain ⟨y, rfl⟩ : ∃ y, b = 2 * y + 1 := ⟨b / 2, by omega⟩
      rw [padded_sep (by omega), padded_sep (by omega)]
    · obtain ⟨y, rfl⟩ : ∃ y, b = 2 * y + 2 := ⟨(b - 2) / 2, by omega⟩
      have hcell := hcells (x - i) (by omega)
      rw [show i + (x - i) = x by omega, show i + (l - 1 - (x - i)) = y by omega] at hcell
      rw [padded_bit (by omega), padded_bit (by omega), hcell]
  · intro h
    refine ⟨hfits, fun t ht => ?_⟩
    have hcell := h.eq (2 * (i + t) + 2) (2 * (i + (l - 1 - t)) + 2) (by omega) (by omega) (by omega)
    rw [padded_bit (by omega), padded_bit (by omega)] at hcell
    exact Option.map_injective (fun _ _ => PadSym.bit.inj) hcell

/-- The best mirror cannot be extended, so it ends with two separators, and the symbols in it are the best palindrome. -/
theorem leftmostLongest_palindrome {bits : List Bool} {r : Nat × Nat} (hne : bits ≠ [])
    (h : LeftmostLongest (MirroredBelow (padded bits) (2 * bits.length + 2)) r) :
    LeftmostLongest (Palindrome bits) ((r.1 - r.2) / 2, r.2) := by
  obtain ⟨center, len⟩ := r
  obtain ⟨⟨hcenter, hmirror⟩, hlongest, hleftmost⟩ := h
  dsimp only at hcenter hmirror hlongest hleftmost ⊢
  have mirror {i l : Nat} (hpal : Palindrome bits i l) :
      MirroredBelow (padded bits) (2 * bits.length + 2) (2 * i + l + 1) l :=
    have hfits := hpal.1
    ⟨by omega, (palindrome_iff_mirrored hfits).1 hpal⟩
  have hone : 1 ≤ len := hlongest _ _ (mirror (palindrome_one hne))
  have hle := hmirror.le
  obtain ⟨-, hend⟩ := hmirror.inside (by omega) hcenter
  obtain ⟨k, rfl | rfl⟩ : ∃ k, center = len + 2 * k ∨ center = 2 * k + len + 1 := ⟨(center - len) / 2, by omega⟩
  · exact absurd (hlongest _ _ ⟨hcenter, hmirror.extend (by omega) hcenter⟩) (Nat.not_succ_le_self len)
  · rw [show (2 * k + len + 1 - len) / 2 = k by omega]
    refine ⟨(palindrome_iff_mirrored (by omega)).2 hmirror, fun i l hpal => hlongest _ _ (mirror hpal), fun i hpal => ?_⟩
    have hleft := hleftmost _ (mirror hpal)
    dsimp only
    omega

/-- Settles O29: the loop passes every centre between the guards, and the result of R160 is one pair only. -/
theorem centerExpansionFindsThePalindrome : Obligations.CenterExpansionFindsThePalindrome := by
  intro bits hne
  have hlen := padded_length bits
  have htracks := (CenterScan.tracks_start (padded bits)).steps (2 * bits.length + 1)
    (fun c hlo hhi => padded_guarded hlo (by omega)) (by omega)
  rw [show 1 + (2 * bits.length + 1) = 2 * bits.length + 2 by omega] at htracks
  exact (leftmostLongest_palindrome hne htracks.best).unique (longestPal_leftmostLongest bits)

end Sys2Proof.Machine
end

section
/-! PROOFS. Errors and reset (60_exceptions.md): what a failed command leaves (R182), which error code a command reports and why
(R181, R183), which transactions are a BUSERR (R190), and a reset from any state (R192, R210). -/

namespace Sys2Proof.Machine

/-! ### A failed command -/

/-- Settles O30: an illegal word and a command both end with an error by `raiseCmdError` alone; a completion has ERR = 0. -/
theorem failedCommandChangesOnlyStatus : Obligations.FailedCommandChangesOnlyStatus := by
  intro s t h herr
  obtain ⟨e, -, rfl⟩ | ⟨i, -, hi⟩ := engineStep_eq_next h
  · rfl
  · obtain ⟨u, -, rfl⟩ | ⟨e, rfl⟩ := exec_eq_next hi
    · exact (herr rfl).elim
    · rfl

/-! ### What an operand reports -/

/-- The bit string is no operand (R120, R163): it is empty, or a cell of it is written and holds no symbol. -/
def BadString (s : State) : Prop :=
  s.symLen = 0 ∨ ∃ k c, k < s.symLen ∧ readCell s.mem.sym k = some c ∧ c ≠ 0x30#8 ∧ c ≠ 0x31#8

theorem badString_of_cmdError {s : State} {e : CmdError} (h : bitStringOperand s = .error (.cmdError e)) :
    e = .invalidInput ∧ BadString s := by
  unfold bitStringOperand at h
  split at h
  · rename_i hempty
    cases h
    exact ⟨rfl, .inl hempty⟩
  · obtain ⟨he, k, c, -, hk, hc, hbit⟩ := readBits_eq_cmdError h
    exact ⟨he, .inr ⟨k, c, by omega, hc, bitOf_eq_none.1 hbit⟩⟩

theorem not_badString_of_ok {s : State} {bits : List Bool} (h : bitStringOperand s = .ok bits) : ¬BadString s := by
  obtain ⟨hne, hlen, hcells⟩ := bitStringOperand_eq_ok.1 h
  rintro (hempty | ⟨k, c, hk, hc, hbad⟩)
  · exact hne (List.length_eq_zero_iff.1 (hlen.symm.trans hempty))
  · rw [hcells k hk] at hc
    obtain ⟨b, -, rfl⟩ := Option.map_eq_some_iff.1 hc
    have hbit := bitOf_eq_none.2 hbad
    rw [bitOf_symOf] at hbit
    cases hbit

/-- Where no unwritten cell stops the reading, a bad string is what ends it (R120). -/
theorem bitStringOperand_eq_cmdError_iff {s : State} {e : CmdError} (hf : ∀ f, bitStringOperand s ≠ .error (.fault f)) :
    bitStringOperand s = .error (.cmdError e) ↔ e = .invalidInput ∧ BadString s := by
  refine ⟨badString_of_cmdError, fun ⟨he, hbad⟩ => ?_⟩
  match hread : bitStringOperand s with
  | .ok bits => exact (not_badString_of_ok hread hbad).elim
  | .error (.fault f) => exact (hf f hread).elim
  | .error (.cmdError e') => rw [he, (badString_of_cmdError hread).1]

/-! ### What an effect reports -/

theorem encodeEffect_eq_cmdError_iff {kind : VKind} {emit : List Bool → List Trit} {s : State} {e : CmdError}
    (hf : ∀ f, encodeEffect kind emit s ≠ .error (.fault f)) :
    encodeEffect kind emit s = .error (.cmdError e) ↔ e = .invalidInput ∧ BadString s := by
  rw [← bitStringOperand_eq_cmdError_iff fun f hread => hf f (encodeEffect_eq_fault_iff.2 hread)]
  unfold encodeEffect
  cases bitStringOperand s <;> simp

theorem anaPalEffect_eq_cmdError_iff {s : State} {e : CmdError} (hf : ∀ f, anaPalEffect s ≠ .error (.fault f)) :
    anaPalEffect s = .error (.cmdError e) ↔ e = .invalidInput ∧ BadString s := by
  rw [← bitStringOperand_eq_cmdError_iff fun f hread => hf f (anaPalEffect_eq_fault_iff.2 hread)]
  unfold anaPalEffect
  cases bitStringOperand s <;> simp

/-- ANA.ZRUN has no error (R164). -/
theorem anaZrunEffect_ne_cmdError {s : State} {e : CmdError} : anaZrunEffect s ≠ .error (.cmdError e) := by
  unfold anaZrunEffect
  split
  · rename_i a ha
    rintro ⟨⟩
    exact voltageOperand_ne_cmdError ha
  · exact nofun

theorem scrambleEffect_eq_cmdError_iff {kind : VKind} {scan : List Trit → List Trit} {s : State} {e : CmdError} :
    scrambleEffect kind scan s = .error (.cmdError e) ↔ e = .unsupportedTransition ∧ s.vkind ≠ .ami := by
  unfold scrambleEffect
  split
  · simp_all [eq_comm]
  · have hread := voltageOperand_ne_cmdError (s := s) (e := e)
    cases hv : voltageOperand s <;> simp_all

theorem quantDmEffect_eq_cmdError_iff {s : State} {e : CmdError} :
    quantDmEffect s = .error (.cmdError e) ↔ e = .invalidInput ∧ s.sampLen = 0 := by
  unfold quantDmEffect
  split
  · simp_all [eq_comm]
  · have hread := sampleOperand_ne_cmdError (s := s) (e := e)
    cases hx : sampleOperand s <;> simp_all

/-- The checks of QUANT.PCM in the order of R183. -/
theorem quantPcmEffect_eq_cmdError_iff {depth : Nat} {s : State} {e : CmdError} :
    quantPcmEffect depth s = .error (.cmdError e) ↔
      (e = .invalidInput ∧ InvalidInputCause (.quantPcm depth) s)
        ∨ (e = .capacityExceeded ∧ s.params.symCap < s.sampLen * depth ∧ ¬InvalidInputCause (.quantPcm depth) s) := by
  unfold quantPcmEffect InvalidInputCause
  split
  · simp_all [eq_comm]
  split
  · have hdepth : depth = 0 ∨ s.params.pcmMaxDepth < depth := by omega
    simp_all [eq_comm]
  have hdepth : ¬(depth = 0 ∨ s.params.pcmMaxDepth < depth) := by omega
  split
  · simp_all [eq_comm]
  · have hread := sampleOperand_ne_cmdError (s := s) (e := e)
    cases hx : sampleOperand s <;> simp_all

/-! ### The causes of R181 -/

/-- R181's cause of an error code, in the order of R183. -/
def ErrorCause (i : Instr) (s : State) : CmdError → Prop
  | .invalidInput => InvalidInputCause i s
  | .unsupportedTransition => UnsupportedCause i s
  | .capacityExceeded => CapacityCause i s ∧ ¬InvalidInputCause i s

theorem capacityCause_quantPcm_iff {depth : Nat} {s : State} :
    CapacityCause (.quantPcm depth) s ↔ s.params.symCap < s.sampLen * depth := by
  simp [CapacityCause]

theorem errorCause_quantPcm_iff {depth : Nat} {s : State} {e : CmdError} :
    ErrorCause (.quantPcm depth) s e ↔
      (e = .invalidInput ∧ InvalidInputCause (.quantPcm depth) s)
        ∨ (e = .capacityExceeded ∧ s.params.symCap < s.sampLen * depth ∧ ¬InvalidInputCause (.quantPcm depth) s) := by
  cases e with
  | invalidInput => simp [ErrorCause]
  | unsupportedTransition => simp [ErrorCause, UnsupportedCause]
  | capacityExceeded => simp [ErrorCause, capacityCause_quantPcm_iff]

/-- A scrambler's only error is its check of VKIND (R140). -/
theorem errorCause_scrambler_iff {i : Instr} {s : State} {e : CmdError} (hi : i = .scrB8zs ∨ i = .scrHdb3) :
    ErrorCause i s e ↔ e = .unsupportedTransition ∧ s.vkind ≠ .ami := by
  have hinput : ¬InvalidInputCause i s := by obtain rfl | rfl := hi <;> exact id
  have hcap : ¬CapacityCause i s := by rintro ⟨depth, rfl, -⟩; simp at hi
  cases e with
  | invalidInput => simp [ErrorCause, hinput]
  | unsupportedTransition => simp [ErrorCause, UnsupportedCause, hi]
  | capacityExceeded => simp [ErrorCause, hcap]

/-- Every other command can only report InvalidInput. -/
theorem errorCause_invalidInput_iff (i : Instr) {s : State} {e : CmdError} (hpcm : ∀ depth, i ≠ .quantPcm depth)
    (hscr : ¬(i = .scrB8zs ∨ i = .scrHdb3)) : ErrorCause i s e ↔ e = .invalidInput ∧ InvalidInputCause i s := by
  have hcap : ¬CapacityCause i s := fun ⟨depth, hi, _⟩ => hpcm depth hi
  cases e with
  | invalidInput => simp [ErrorCause]
  | unsupportedTransition => simp [ErrorCause, UnsupportedCause, hscr]
  | capacityExceeded => simp [ErrorCause, hcap]

/-- A command that no unwritten cell stops is ended by an error code exactly for the code's cause. -/
theorem commandEffect_eq_cmdError_iff {i : Instr} {s : State} {e : CmdError}
    (hf : ∀ f, commandEffect i s ≠ .error (.fault f)) :
    commandEffect i s = .error (.cmdError e) ↔ ErrorCause i s e := by
  cases i with
  | quantPcm depth => exact quantPcmEffect_eq_cmdError_iff.trans errorCause_quantPcm_iff.symm
  | quantDm => exact quantDmEffect_eq_cmdError_iff.trans (errorCause_invalidInput_iff .quantDm nofun (by simp)).symm
  | encNrzl => exact (encodeEffect_eq_cmdError_iff hf).trans (errorCause_invalidInput_iff .encNrzl nofun (by simp)).symm
  | encNrzi => exact (encodeEffect_eq_cmdError_iff hf).trans (errorCause_invalidInput_iff .encNrzi nofun (by simp)).symm
  | encMan => exact (encodeEffect_eq_cmdError_iff hf).trans (errorCause_invalidInput_iff .encMan nofun (by simp)).symm
  | encDman => exact (encodeEffect_eq_cmdError_iff hf).trans (errorCause_invalidInput_iff .encDman nofun (by simp)).symm
  | encAmi => exact (encodeEffect_eq_cmdError_iff hf).trans (errorCause_invalidInput_iff .encAmi nofun (by simp)).symm
  | scrB8zs => exact scrambleEffect_eq_cmdError_iff.trans (errorCause_scrambler_iff (.inl rfl)).symm
  | scrHdb3 => exact scrambleEffect_eq_cmdError_iff.trans (errorCause_scrambler_iff (.inr rfl)).symm
  | anaPal => exact (anaPalEffect_eq_cmdError_iff hf).trans (errorCause_invalidInput_iff .anaPal nofun (by simp)).symm
  | anaZrun =>
    exact iff_of_false anaZrunEffect_ne_cmdError fun hcause =>
      ((errorCause_invalidInput_iff .anaZrun nofun (by simp)).1 hcause).2

theorem CmdError.code_injective {e e' : CmdError} (h : e.code = e'.code) : e = e' := by
  revert h
  cases e <;> cases e' <;> decide

/-- ERR after a command that goes on to a next state tells how its effect ended. -/
theorem conclude_err_eq_code_iff {r : Except Abort State} {s t : State} (h : conclude s r = .next t) (e : CmdError) :
    t.err = e.code ↔ r = .error (.cmdError e) := by
  obtain ⟨u, rfl, rfl⟩ | ⟨e', rfl, rfl⟩ := conclude_eq_next.1 h
  · exact iff_of_false (fun hok => e.code_ne_ok hok.symm) nofun
  · rw [raiseCmdError_err, Except.error.injEq, Abort.cmdError.injEq]
    exact ⟨CmdError.code_injective, congrArg _⟩

theorem exec_err_eq_code_iff {i : Instr} {s t : State} (h : exec i s = .next t) (e : CmdError) :
    t.err = e.code ↔ ErrorCause i s e := by
  have hf (f : Fault) : commandEffect i s ≠ .error (.fault f) := by
    rw [ne_eq, ← exec_eq_fault_iff, h]
    exact nofun
  rw [exec_eq_conclude_effect] at h
  rw [conclude_err_eq_code_iff h, commandEffect_eq_cmdError_iff hf]

/-- Settles O31: an illegal word has its one error, and each code of a command its cause. -/
theorem errorsHaveTheirCauses : Obligations.ErrorsHaveTheirCauses := by
  refine ⟨fun s t e he h => ?_, fun i s t h => ?_⟩
  · rw [engineStep_of_decode_error he] at h
    cases h
    rfl
  · have hcause := exec_err_eq_code_iff h
    exact ⟨hcause .invalidInput, hcause .unsupportedTransition, hcause .capacityExceeded⟩

/-! ### Bus errors -/

/-- The reserved addresses among the control registers (R22). -/
theorem regAt_eq_none_iff {n : Nat} (hn : n % 4 = 0) : regAt n = none ↔ n = 0x1C ∨ n = 0x2C ∨ 0x40 ≤ n := by
  constructor
  · intro h
    by_contra hreg
    obtain ⟨m, rfl⟩ : ∃ m, n = 4 * m := ⟨n / 4, by omega⟩
    have hm : m < 16 := by omega
    interval_cases m <;> simp_all [regAt]
  · intro h
    rw [Option.eq_none_iff_forall_ne_some]
    intro r hr
    obtain rfl := regAt_eq_some_iff.1 hr
    cases r <;> simp [Reg.offset] at h

/-- The address map of R52 has no target exactly at the addresses R190 calls invalid. -/
theorem decodeAddr_eq_none_iff {p : Params} {a : BusAddr} : decodeAddr p a = none ↔ BadAddress p a.toNat := by
  unfold decodeAddr BadAddress
  dsimp only
  split
  · exact iff_of_true rfl (by omega)
  rename_i halign
  split
  · have hreg := regAt_eq_none_iff (n := a.toNat) (by omega)
    cases hr : regAt a.toNat with
    | none =>
      have hreserved := hreg.1 hr
      exact iff_of_true rfl (by omega)
    | some r =>
      have hvalid : ¬(a.toNat = 0x1C ∨ a.toNat = 0x2C ∨ 0x40 ≤ a.toNat) := by rw [← hreg, hr]; exact nofun
      exact iff_of_false nofun (by omega)
  split
  · rw [ite_eq_right_iff]
    simp only [reduceCtorEq, imp_false]
    omega
  split
  · rw [ite_eq_right_iff]
    simp only [reduceCtorEq, imp_false, Params.voltCap]
    omega
  split
  · rw [ite_eq_right_iff]
    simp only [reduceCtorEq, imp_false]
    omega
  · exact iff_of_true rfl (by omega)

theorem exists_target {p : Params} {a : BusAddr} (h : ¬BadAddress p a.toNat) : ∃ t, decodeAddr p a = some t := by
  rw [← Option.ne_none_iff_exists']
  exact mt decodeAddr_eq_none_iff.1 h

/-- The causes of R190 by which an idle write of a valid address is refused, for its byte address `n`. -/
def RefusedWrite (p : Params) (n : Nat) (d : Word) : Prop :=
  n ∈ [0x0, 0x4, 0x8, 0xC, 0x14, 0x18, 0x30, 0x34, 0x38, 0x3C]
    ∨ (n = 0x20 ∧ p.sampCap < d.toNat)
    ∨ (n = 0x24 ∧ p.symCap < d.toNat)
    ∨ (n = 0x28 ∧ p.voltCap < d.toNat)
    ∨ (0x8000 ≤ n ∧ n < 0x10000 ∧ d ≠ 0x00000000#32 ∧ d ≠ 0x00000001#32 ∧ d ≠ 0xFFFFFFFF#32)

theorem writeBusErrorCause_iff {s : State} {a : BusAddr} {d : Word} :
    WriteBusErrorCause s a d ↔ BadAddress s.params a.toNat ∨ s.busy = true ∨ RefusedWrite s.params a.toNat d :=
  Iff.rfl

theorem writeReg_eq_none_iff {r : Reg} {d : Word} {s : State} :
    writeReg r d s = none ↔ RefusedWrite s.params r.offset d := by
  cases r <;> simp [writeReg, RefusedWrite, Reg.offset]

theorem tritOfWord_eq_none_iff {d : Word} :
    tritOfWord d = none ↔ d ≠ 0x00000000#32 ∧ d ≠ 0x00000001#32 ∧ d ≠ 0xFFFFFFFF#32 := by
  refine ⟨fun h => ⟨?_, ?_, ?_⟩, fun ⟨hzero, hplus, hminus⟩ => tritOfWord_eq_none hzero hplus hminus⟩ <;>
  · rintro rfl
    cases h

theorem refusedWrite_volt_iff {p : Params} {n : Nat} {d : Word} (hlo : 0x8000 ≤ n) (hhi : n < 0x10000) :
    RefusedWrite p n d ↔ d ≠ 0x00000000#32 ∧ d ≠ 0x00000001#32 ∧ d ≠ 0xFFFFFFFF#32 := by
  refine ⟨fun h => ?_, fun h => .inr (.inr (.inr (.inr ⟨hlo, hhi, h⟩)))⟩
  obtain hro | ⟨hn, -⟩ | ⟨hn, -⟩ | ⟨hn, -⟩ | ⟨-, -, h⟩ := h
  · simp only [List.mem_cons, List.not_mem_nil, or_false] at hro
    omega
  · omega
  · omega
  · omega
  · exact h

theorem writeTarget_volt_eq_none_iff {k : Nat} {d : Word} {s : State} :
    writeTarget (.volt k) d s = none ↔ tritOfWord d = none := by
  rw [writeTarget]
  cases tritOfWord d <;> simp

/-- A register refuses by its row of R22 and R58, a VOLT cell by R57; SYM and SAMP take every word. -/
theorem writeTarget_eq_none_iff {t : Target} {d : Word} {s : State} (ht : t.InMap s.params) :
    writeTarget t d s = none ↔ RefusedWrite s.params t.byteAddr d := by
  cases t with
  | reg r => exact writeReg_eq_none_iff
  | sym k =>
    obtain ⟨-, hk⟩ := ht
    exact iff_of_false nofun (by simp [RefusedWrite, Target.byteAddr]; omega)
  | volt k =>
    obtain ⟨-, hk⟩ := ht
    rw [writeTarget_volt_eq_none_iff, tritOfWord_eq_none_iff, Target.byteAddr, refusedWrite_volt_iff (by omega) (by omega)]
  | samp k => exact iff_of_false nofun (by simp [RefusedWrite, Target.byteAddr]; omega)

theorem busWrite_fst_eq_busErr_iff (a : BusAddr) (d : Word) (s : State) :
    (busWrite a d s).1 = .busErr ↔ WriteBusErrorCause s a d := by
  rw [writeBusErrorCause_iff, ← decodeAddr_eq_none_iff]
  cases ha : decodeAddr s.params a with
  | none => simp [busWrite, ha]
  | some t =>
    cases hb : s.busy with
    | true => simp [busWrite_busy a d hb]
    | false =>
      obtain ⟨hmap, haddr⟩ := decodeAddr_eq_some_iff.1 ha
      rw [busWrite_idle d hb ha, haddr, ← writeTarget_eq_none_iff hmap]
      cases writeTarget t d s <;> simp

theorem busWrite_of_busErr {a : BusAddr} {d : Word} {s : State} (h : (busWrite a d s).1 = .busErr) :
    (busWrite a d s).2 = s := by
  obtain hw | ⟨t, s', -, -, -, hw⟩ := busWrite_cases a d s <;> rw [hw] at h ⊢
  cases h

theorem busRead_of_cause {s : State} {a : BusAddr} (h : ReadBusErrorCause s a) : busRead a s = .ok busErrorReply := by
  obtain hbad | ⟨hb, h0, h4, h8, hC, h14⟩ := h
  · rw [busRead, decodeAddr_eq_none_iff.2 hbad]
  · obtain ⟨r, hr, -, hblocked⟩ := busRead_busy a hb
    rw [hr, hblocked (by simp [h0, h4, h8, hC, h14])]

/-- While idle every target that can be read answers OKAY (R60). -/
theorem readTarget_resp {t : Target} {s : State} {r : Reply} (h : readTarget t s = .ok r) : r.resp = .okay := by
  cases t with
  | reg r => cases h; rfl
  | sym k =>
    simp only [readTarget] at h
    split at h <;> cases h
    rfl
  | volt k =>
    simp only [readTarget] at h
    split at h <;> cases h
    rfl
  | samp k =>
    simp only [readTarget] at h
    split at h <;> cases h
    rfl

theorem busRead_resp_of_no_cause {s : State} {a : BusAddr} {r : Reply} (h : ¬ReadBusErrorCause s a)
    (hr : busRead a s = .ok r) : r.resp = .okay := by
  obtain ⟨hvalid, hreadable⟩ := not_or.1 h
  cases hb : s.busy with
  | true =>
    obtain ⟨r', hr', hokay, -⟩ := busRead_busy a hb
    rw [hr, Except.ok.injEq] at hr'
    subst hr'
    refine hokay ?_
    by_contra hout
    simp only [List.mem_cons, List.not_mem_nil, or_false, not_or] at hout
    exact hreadable ⟨hb, hout⟩
  | false =>
    obtain ⟨t, ht⟩ := exists_target hvalid
    exact readTarget_resp ((busRead_idle hb ht).symm.trans hr)

/-- Settles O46: a read with a cause is answered with `busErrorReply`, one without is OKAY or stops over an unwritten cell. -/
theorem busErrorsHaveTheirCauses : Obligations.BusErrorsHaveTheirCauses := by
  intro s a d
  have hcause {r : Reply} (hr : busRead a s = .ok r) (herr : r.resp = .busErr) : ReadBusErrorCause s a := by
    by_contra hno
    rw [busRead_resp_of_no_cause hno hr] at herr
    cases herr
  refine ⟨busWrite_fst_eq_busErr_iff a d s, busWrite_of_busErr,
    ⟨fun h => ⟨_, busRead_of_cause h, rfl⟩, fun ⟨r, hr, herr⟩ => hcause hr herr⟩, fun r hr herr => ?_⟩
  rw [busRead_of_cause (hcause hr herr)] at hr
  cases hr
  rfl

/-! ### Reset from every state -/

/-- The host's record gains the transactions issued during a reset, the newest first (log 7). -/
theorem observeDuringReset_transactions (during : List Transaction) (s : State) :
    (observeDuringReset during s).observed.map (fun o => o.tx) = during.reverse ++ s.observed.map (fun o => o.tx) := by
  induction during generalizing s with
  | nil => rfl
  | cons tx during ih => rw [observeDuringReset, ih]; simp

/-- What a reset leaves: the reset state of the same parameters, the world outside and the host's record apart (R210). -/
theorem resetTurn_eq (during : List Transaction) (rest : List EnvEvent) (s : State) :
    ∃ o d, resetTurn during rest s =
        { State.resetOf s.params with env := rest, schedule := s.schedule, observed := o, draws := d }
      ∧ o.map (fun seen => seen.tx) = during.reverse ++ s.observed.map (fun o => o.tx) := by
  have htx := observeDuringReset_transactions during { resetBlock s with env := rest }
  obtain ⟨o, d, hreset⟩ := observeDuringReset_eq during { resetBlock s with env := rest }
  rw [hreset] at htx
  exact ⟨o, d, hreset, htx⟩

/-- A reset comes first (R192); while BUSY = 1 its step uses up one turn (log 4). -/
theorem step_reset {s : State} {during : List Transaction} {rest : List EnvEvent} (he : s.env = .reset during :: rest) :
    step s = .next (resetTurn during rest (if s.busy then takeTurn s else s)) := by
  rw [step, engineMoves_of_reset he]
  cases s.busy <;> simp [envStep, he]

/-- Settles O53: the step is the reset's turn; the turn of the schedule it uses up is no part of the parameters or the record. -/
theorem resetTakesEffectFromEveryState : Obligations.ResetTakesEffectFromEveryState := by
  intro s during rest he
  obtain ⟨o, d, hreset, htx⟩ := resetTurn_eq during rest (if s.busy then takeTurn s else s)
  refine ⟨_, step_reset he, ?_, ?_⟩
  · rw [hreset]
    split <;> rfl
  · rw [hreset, htx]
    split <;> rfl

end Sys2Proof.Machine
end

section
/-! PROOFS. Acceptance, completion and re-execution (70_reset_and_hazards.md): a CMD write is accepted while idle (R211), a command
over written cells completes (R213, R215), a pending command is executed once the schedule lets the engine move (R212), and a
repeated encode changes nothing (R214). -/

namespace Sys2Proof.Machine

open Sys2Proof.Statements

/-! ### Acceptance -/

/-- Settles O41: CMD is the register at 0x010, and a busy block refuses every write. -/
theorem cmdWriteIsAccepted : Obligations.CmdWriteIsAccepted := fun _ d =>
  ⟨busWrite_cmd_idle d, busWrite_busy _ d⟩

/-! ### A command over written cells -/

theorem bitStringOperand_ne_fault {s : State} (h : ∀ k, k < s.symLen → (readCell s.mem.sym k).isSome = true) (f : Fault) :
    bitStringOperand s ≠ .error (.fault f) := by
  unfold bitStringOperand
  split
  · nofun
  · intro hf
    obtain ⟨k, -, hnone, -, hk⟩ := readBits_eq_fault hf
    simpa [hnone] using h k (by omega)

theorem voltageOperand_ne_fault {s : State} (h : ∀ k, k < s.voltLen → (readCell s.mem.volt k).isSome = true) (f : Fault) :
    voltageOperand s ≠ .error (.fault f) := by
  unfold voltageOperand
  split
  · rename_i k hread
    obtain ⟨hnone, -, hk⟩ := readCells_eq_error hread
    simpa [hnone] using h k (by omega)
  · nofun

theorem sampleOperand_ne_fault {s : State} (h : ∀ k, k < s.sampLen → (readCell s.mem.samp k).isSome = true) (f : Fault) :
    sampleOperand s ≠ .error (.fault f) := by
  unfold sampleOperand
  split
  · rename_i k hread
    obtain ⟨hnone, -, hk⟩ := readCells_eq_error hread
    simpa [hnone] using h k (by omega)
  · nofun

/-- A command faults only in its operand, and each operand ends at its own length register. -/
theorem exec_ne_fault {i : Instr} {s : State} (h : InputsWritten i s) (f : Fault) : exec i s ≠ .fault f := by
  rw [Ne, exec_eq_fault_iff]
  intro hf
  cases i with
  | quantPcm depth =>
    obtain ⟨-, -, -, hread⟩ := quantPcmEffect_eq_fault_iff.1 hf
    exact sampleOperand_ne_fault h f hread
  | quantDm => exact sampleOperand_ne_fault h f (quantDmEffect_eq_fault_iff.1 hf).2
  | encNrzl => exact bitStringOperand_ne_fault h f (encodeEffect_eq_fault_iff.1 hf)
  | encNrzi => exact bitStringOperand_ne_fault h f (encodeEffect_eq_fault_iff.1 hf)
  | encMan => exact bitStringOperand_ne_fault h f (encodeEffect_eq_fault_iff.1 hf)
  | encDman => exact bitStringOperand_ne_fault h f (encodeEffect_eq_fault_iff.1 hf)
  | encAmi => exact bitStringOperand_ne_fault h f (encodeEffect_eq_fault_iff.1 hf)
  | scrB8zs => exact voltageOperand_ne_fault h f (scrambleEffect_eq_fault_iff.1 hf).2
  | scrHdb3 => exact voltageOperand_ne_fault h f (scrambleEffect_eq_fault_iff.1 hf).2
  | anaPal => exact bitStringOperand_ne_fault h f (anaPalEffect_eq_fault_iff.1 hf)
  | anaZrun => exact voltageOperand_ne_fault h f (anaZrunEffect_eq_fault_iff.1 hf)

/-- Completion and a command error both clear BUSY (R182, R212). -/
theorem exec_busy {i : Instr} {s t : State} (h : exec i s = .next t) : t.busy = false := by
  obtain ⟨u, -, rfl⟩ | ⟨e, rfl⟩ := exec_eq_next h
  · rfl
  · rfl

/-- Settles O32: of a command's three outcomes, written inputs exclude the fault, and it never refuses. -/
theorem writtenInputsComplete : Obligations.WrittenInputsComplete := by
  intro i s h
  cases hx : exec i s with
  | next t => exact ⟨t, rfl, exec_busy hx⟩
  | fault f => exact (exec_ne_fault h f hx).elim
  | refused q => exact (exec_ne_refused i s q hx).elim

/-! ### Running the machine -/

theorem run_succ_of_step (M : Host.Core) {k : Nat} {s t : M.State} (h : M.step s = .next t) :
    M.run (k + 1) s = M.run k t := by
  rw [Host.Core.run, h]

/-- A run that goes on ends with one more step. -/
theorem run_succ_of_run (M : Host.Core) {k : Nat} {s u : M.State} (h : M.run k s = .next u) :
    M.run (k + 1) s = M.step u := by
  induction k generalizing s with
  | zero =>
    cases h
    rw [Host.Core.run]
    cases M.step u <;> rfl
  | succ k ih =>
    cases hs : M.step s with
    | next t => exact (run_succ_of_step M hs).trans (ih (run_succ_of_step M hs ▸ h))
    | fault f => rw [Host.Core.run, hs] at h; cases h
    | refused q => rw [Host.Core.run, hs] at h; cases h

/-! ### Waiting for the engine -/

/-- `u` is the block as in `s`, with another outside world: its events, the schedule and the host's record (log 4, log 6, log 7). -/
def SameBlock (s u : State) : Prop :=
  u = { s with env := u.env, schedule := u.schedule, observed := u.observed }

theorem SameBlock.refl (s : State) : SameBlock s s := rfl

theorem SameBlock.trans {s t u : State} (hst : SameBlock s t) (htu : SameBlock t u) : SameBlock s u := by
  unfold SameBlock at *
  rw [htu, hst]

theorem SameBlock.busy_eq {s u : State} (h : SameBlock s u) : u.busy = s.busy := by rw [h]

theorem SameBlock.mem_eq {s u : State} (h : SameBlock s u) : u.mem = s.mem := by rw [h]

/-- While BUSY = 1, a turn of the host leaves the block as it is and adds no event to the outside world (R38, R66). -/
theorem step_hostTurn_sameBlock {s : State} {e : EnvEvent} {rest : List EnvEvent} (hb : s.busy = true)
    (he : s.env = e :: rest) (hreset : ∀ d, e ≠ .reset d) (hs : s.schedule.head? = some .host) :
    ∃ u, step s = .next u ∧ SameBlock s u ∧ u.schedule = s.schedule.tail ∧ u.env ⊆ s.env := by
  have hrest : rest ⊆ s.env := he ▸ List.subset_cons_self e rest
  match e, hreset with
  | .bus (.read a), _ =>
    obtain ⟨r, -, -, -, hstep⟩ := busyStepRecordsTheReply.1 s a rest hb hs he
    exact ⟨_, hstep, rfl, rfl, hrest⟩
  | .bus (.write a d), _ => exact ⟨_, busyStepRecordsTheReply.2 s a d rest hb hs he, rfl, rfl, hrest⟩
  | .poll, _ => exact ⟨_, (pollWaitsForCompletion s rest he).2 hb hs, rfl, rfl, List.Subset.refl _⟩
  | .reset d, hreset => exact (hreset d rfl).elim

/-- While BUSY = 1 and no reset comes, the engine moves, or the host has something to do and the schedule puts it first. -/
theorem engineMoves_or_hostTurn {s : State} (hb : s.busy = true) (hreset : ∀ d, EnvEvent.reset d ∉ s.env) :
    engineMoves s = true
      ∨ ∃ e rest, s.env = e :: rest ∧ (∀ d, e ≠ .reset d) ∧ s.schedule.head? = some .host := by
  cases he : s.env with
  | nil => exact .inl (engineMoves_of_silent hb he)
  | cons e rest =>
    have hne : ∀ d, e ≠ .reset d := fun d hd => hreset d (by simp [he, hd])
    by_cases hs : s.schedule.head? = some .host
    · exact .inr ⟨e, rest, rfl, hne, hs⟩
    · exact .inl (by rw [engineMoves_of_contention hb he hne, decide_eq_true hs])

/-- Each turn the host takes uses up one of the schedule, so the engine's comes before the schedule ends or right after it. -/
theorem exists_run_engineMoves {n : Nat} {s : State} (hn : s.schedule.length = n) (hb : s.busy = true)
    (hreset : ∀ d, EnvEvent.reset d ∉ s.env) :
    ∃ (k : Nat) (u : State), k ≤ n ∧ Host.Core.run Sys2Proof.core k s = .next u ∧ SameBlock s u
      ∧ engineMoves u = true := by
  induction n generalizing s with
  | zero =>
    obtain hm | ⟨e, rest, -, -, hs⟩ := engineMoves_or_hostTurn hb hreset
    · exact ⟨0, s, Nat.le_refl 0, rfl, .refl s, hm⟩
    · rw [List.eq_nil_of_length_eq_zero hn] at hs
      cases hs
  | succ n ih =>
    obtain hm | ⟨e, rest, he, hne, hs⟩ := engineMoves_or_hostTurn hb hreset
    · exact ⟨0, s, Nat.zero_le _, rfl, .refl s, hm⟩
    · obtain ⟨t, hstep, hblock, hsched, henv⟩ := step_hostTurn_sameBlock hb he hne hs
      obtain ⟨k, u, hk, hrun, hu, hm⟩ := ih (s := t) (by rw [hsched, List.length_tail, hn, Nat.add_sub_cancel])
        (hblock.busy_eq.trans hb) fun d hd => hreset d (henv hd)
      exact ⟨k + 1, u, Nat.succ_le_succ hk, (run_succ_of_step Sys2Proof.core hstep).trans hrun, hblock.trans hu, hm⟩

/-! ### The engine's step ends the command -/

theorem engineStep_busy {s t : State} (h : engineStep s = .next t) : t.busy = false := by
  obtain ⟨e, -, rfl⟩ | ⟨i, -, hi⟩ := engineStep_eq_next h
  · rfl
  · exact exec_busy hi

theorem FaultNamesUnwritten.of_mem_eq {f : Fault} {s u : State} (h : FaultNamesUnwritten f u) (hmem : u.mem = s.mem) :
    FaultNamesUnwritten f s := by
  unfold FaultNamesUnwritten at *
  rwa [← hmem]

/-- Settles O59: the host's turns lead to a state of the same block where the engine moves, and its step ends the command. -/
theorem pendingCommandIsExecuted : Obligations.PendingCommandIsExecuted := by
  intro s hb hreset
  obtain ⟨k, u, hk, hrun, hblock, hm⟩ := exists_run_engineMoves rfl hb hreset
  refine ⟨k, u, hk, hrun, hblock, hm, (run_succ_of_run Sys2Proof.core hrun).trans (step_engineTurn hm), ?_⟩
  obtain ⟨hfault, hrefused⟩ := engineStep_stopsSafely { u with schedule := u.schedule.tail }
  cases hstep : engineStep { u with schedule := u.schedule.tail } with
  | next t => exact engineStep_busy hstep
  | fault f => exact (hfault f hstep).of_mem_eq hblock.mem_eq
  | refused q => exact (hrefused q hstep).elim

/-! ### Writing the same cells again -/

theorem writeCell_writeCell_same {α : Type} (m : Cells α) (k : Nat) (x : α) :
    writeCell (writeCell m k x) k x = writeCell m k x := by
  induction m with
  | nil => simp [writeCell]
  | cons c rest ih =>
    obtain ⟨a, y⟩ := c
    obtain hlt | rfl | hgt := Nat.lt_trichotomy k a
    · simp [writeCell, hlt]
    · simp [writeCell]
    · simp [writeCell, Nat.not_lt_of_gt hgt, Nat.ne_of_gt hgt, ih]

/-- A write that changes nothing still changes nothing after a write of a later cell. -/
theorem writeCell_unchanged_writeCell {α : Type} {m : Cells α} {k j : Nat} {x : α} (y : α) (hkj : k < j)
    (h : writeCell m k x = m) : writeCell (writeCell m j y) k x = writeCell m j y := by
  induction m with
  | nil => cases h
  | cons c rest ih =>
    obtain ⟨a, z⟩ := c
    obtain hlt | rfl | hgt := Nat.lt_trichotomy k a
    · have hlen := congrArg List.length h
      simp [writeCell, hlt] at hlen
    · have hx : x = z := by simpa [writeCell] using h
      simp [writeCell, Nat.not_lt_of_gt hkj, Nat.ne_of_gt hkj, hx]
    · have hrest : writeCell rest k x = rest := by
        simpa [writeCell, Nat.not_lt_of_gt hgt, Nat.ne_of_gt hgt] using h
      have hja : a < j := Nat.lt_trans hgt hkj
      simp [writeCell, Nat.not_lt_of_gt hja, Nat.ne_of_gt hja, Nat.not_lt_of_gt hgt, Nat.ne_of_gt hgt, ih hrest]

theorem writeCell_unchanged_writeCells {α : Type} {m : Cells α} {k j : Nat} {x : α} (ys : List α) (hkj : k < j)
    (h : writeCell m k x = m) : writeCell (writeCells m j ys) k x = writeCells m j ys := by
  induction ys generalizing m j with
  | nil => exact h
  | cons y ys ih => exact ih (Nat.lt_succ_of_lt hkj) (writeCell_unchanged_writeCell y hkj h)

/-- The data is the same, not only what it reads: the first pass has put each cell where the second finds it. -/
theorem writeCells_writeCells_same {α : Type} (m : Cells α) (k : Nat) (xs : List α) :
    writeCells (writeCells m k xs) k xs = writeCells m k xs := by
  induction xs generalizing m k with
  | nil => rfl
  | cons x xs ih =>
    have hfirst := writeCell_unchanged_writeCells xs (Nat.lt_succ_self k) (writeCell_writeCell_same m k x)
    rw [writeCells, writeCells, hfirst, ih]

/-! ### The same encode again -/

theorem storeVoltages_again (kind : VKind) (out : List Trit) (s : State) :
    succeeded (storeVoltages kind out (succeeded (storeVoltages kind out s))) = succeeded (storeVoltages kind out s) := by
  simp [succeeded, storeVoltages, writeCells_writeCells_same]

theorem Encodes.of_exec_ok {i : Instr} {kind : VKind} {emit : List Bool → List Trit} {s t : State}
    (henc : Encodes i kind emit) (h : exec i s = .next t) (hok : t.err = .ok) :
    ∃ bits, bitStringOperand s = .ok bits ∧ t = succeeded (storeVoltages kind (emit bits) s) := by
  obtain ⟨u, hu, rfl⟩ | ⟨e, rfl⟩ := exec_eq_next h
  · rw [henc s] at hu
    obtain ⟨bits, hread, rfl⟩ := encodeEffect_eq_ok hu
    exact ⟨bits, hread, rfl⟩
  · exact (e.code_ne_ok hok).elim

/-- Settles O18: the first run leaves the bit string, so the second stores the same output over itself. -/
theorem encodeIsIdempotent : Obligations.EncodeIsIdempotent := by
  intro i kind s t hi h hok
  obtain ⟨emit, henc⟩ := exists_encodes_of_isEncoder hi
  obtain ⟨bits, hread, rfl⟩ := henc.of_exec_ok h hok
  have hagain : bitStringOperand (succeeded (storeVoltages kind (emit bits) s)) = .ok bits := hread
  rw [henc.exec_of_bits hagain, storeVoltages_again]

end Sys2Proof.Machine
end
